-- ==== Sys2Proof/Word.lean ====
section
/-! DEFINITION. The word types of GB39-ENC: what the spec treats as bits. -/

namespace Sys2Proof

/-- One byte: a bus address, write data, read data, a buffer byte (R20, R22). -/
abbrev Byte := BitVec 8

/-- An 11-bit word index: IDX[i] and WSEL (R24, R30). -/
abbrev Index := BitVec 11

/-- A 17-bit transaction word T (R80). -/
abbrev TWord := BitVec 17

end Sys2Proof
end

