-- ==== Sys2Proof/Syntax.lean ====
section
/-! DEFINITION. The operations of GB39-ENC: one constructor per row of the opcode map (R83), with the operands of R81.
Bits that decode and operation both ignore (the D field of a read, D[7:3] of a CTRL or WSEL_HI write) are no operands
(R85, R88). DESIGN CHOICE, safe: log entry 16. -/

namespace Sys2Proof

/-- A bus operation (R83, rows 1 to 23, in the table's order). -/
inductive Instr where
  /-- RD.MB: read buffer byte j (R103). -/
  | rdMb (j : Fin 32)
  /-- RD.CSUM: read the checksum (R128). -/
  | rdCsum
  /-- RD.CTRL: read the command register (R192). -/
  | rdCtrl
  /-- RD.STATUS: read the status flags (R193). -/
  | rdStatus
  /-- RD.ERRCODE: read the error code (R194). -/
  | rdErrcode
  /-- RD.ENT_CNT: read the entropy byte count (R104). -/
  | rdEntCnt
  /-- RD.ENT_IN: read the push port (R105). -/
  | rdEntIn
  /-- RD.PHR_DATA: read the next phrase byte (R172). -/
  | rdPhrData
  /-- RD.WSEL_HI: read WSEL[10:8] (R155). -/
  | rdWselHi
  /-- RD.WSEL_LO: read WSEL[7:0] (R156). -/
  | rdWselLo
  /-- RD.WLEN: read the length of the selected word (R157). -/
  | rdWlen
  /-- RD.WCHR: read byte j of the selected word (R158). -/
  | rdWchr (j : Fin 16)
  /-- RD.IDX_HI: read the high 3 bits of word index i (R129). -/
  | rdIdxHi (i : Fin 24)
  /-- RD.IDX_LO: read the low 8 bits of word index i (R130). -/
  | rdIdxLo (i : Fin 24)
  /-- RD.RSVD: read the reserved address a (R195). -/
  | rdRsvd (a : Byte)
  /-- WR.CTRL.CLEAR (R190). -/
  | wrCtrlClear
  /-- WR.CTRL.START (R121). -/
  | wrCtrlStart
  /-- WR.CTRL.PRW (R173). -/
  | wrCtrlPrw
  /-- WR.CTRL.NOP (R191). -/
  | wrCtrlNop
  /-- WR.ENT_IN: push the entropy byte d (R102). -/
  | wrEntIn (d : Byte)
  /-- WR.WSEL_HI: set WSEL[10:8] to d (R153). -/
  | wrWselHi (d : BitVec 3)
  /-- WR.WSEL_LO: set WSEL[7:0] to d (R154). -/
  | wrWselLo (d : Byte)
  /-- WR.ILLEGAL: write d to the read-only or reserved address a (R196). -/
  | wrIllegal (a d : Byte)
  deriving DecidableEq, Repr

end Sys2Proof
end

