-- ==== Sys2Proof/WellFormed.lean ====
section
/-! DEFINITION. Which operations the spec knows: the address operand of the two catch-all rows is one that no other row of
its kind covers. Every other operand is bounded by its type. -/

namespace Sys2Proof

/-- The reserved addresses of the register map (R52): 0x21-0x3F, 0x49-0x4F, 0x60-0x7F, 0xB0-0xFF. -/
def reservedAddr (a : Byte) : Bool :=
  (0x21 ≤ a && a ≤ 0x3F) || (0x49 ≤ a && a ≤ 0x4F) || (0x60 ≤ a && a ≤ 0x7F) || (0xB0 ≤ a && a ≤ 0xFF)

/-- The addresses a write may use: CTRL, ENT_IN, WSEL_HI and WSEL_LO (R52, R196). -/
def writableAddr (a : Byte) : Bool :=
  a == 0x40 || a == 0x44 || a == 0x46 || a == 0x47

/-- The operation is one that some transaction word stands for. -/
def Instr.wf : Instr → Bool
  | .rdMb _ => true
  | .rdCsum => true
  | .rdCtrl => true
  | .rdStatus => true
  | .rdErrcode => true
  | .rdEntCnt => true
  | .rdEntIn => true
  | .rdPhrData => true
  | .rdWselHi => true
  | .rdWselLo => true
  | .rdWlen => true
  | .rdWchr _ => true
  | .rdIdxHi _ => true
  | .rdIdxLo _ => true
  | .rdRsvd a => reservedAddr a
  | .wrCtrlClear => true
  | .wrCtrlStart => true
  | .wrCtrlPrw => true
  | .wrCtrlNop => true
  | .wrEntIn _ => true
  | .wrWselHi _ => true
  | .wrWselLo _ => true
  | .wrIllegal a _ => !writableAddr a

/-- The operation is a bus read (W = 0, R80). -/
def Instr.isRead : Instr → Bool
  | .rdMb _ => true
  | .rdCsum => true
  | .rdCtrl => true
  | .rdStatus => true
  | .rdErrcode => true
  | .rdEntCnt => true
  | .rdEntIn => true
  | .rdPhrData => true
  | .rdWselHi => true
  | .rdWselLo => true
  | .rdWlen => true
  | .rdWchr _ => true
  | .rdIdxHi _ => true
  | .rdIdxLo _ => true
  | .rdRsvd _ => true
  | .wrCtrlClear => false
  | .wrCtrlStart => false
  | .wrCtrlPrw => false
  | .wrCtrlNop => false
  | .wrEntIn _ => false
  | .wrWselHi _ => false
  | .wrWselLo _ => false
  | .wrIllegal _ _ => false

end Sys2Proof
end

