-- ==== Sys2Proof/Decode.lean ====
section
/-! DEFINITION. Transaction words (R80), their decoding by the opcode map (R82, R83), and the encoder written from the same
map (R81, R83). -/

namespace Sys2Proof

/-- T = W·2^16 + A·2^8 + D: the three fields of R80, W first. -/
def tword (we : Bool) (a d : Byte) : TWord := BitVec.ofBool we ++ a ++ d

/-- The W field, T[16]. -/
def fieldW (w : TWord) : Bool := w.getLsbD 16

/-- The A field, T[15:8]. -/
def fieldA (w : TWord) : Byte := w.extractLsb' 8 8

/-- The D field, T[7:0]. -/
def fieldD (w : TWord) : Byte := w.extractLsb' 0 8

/-- One row of the opcode map: its name, mask and match, its constraint, and the operation it builds from the word. -/
structure Row where
  mnemonic : String
  mask : TWord
  pattern : TWord
  constraint : TWord → Bool
  build : TWord → Instr

/-- A word is in a row if (T & mask) = match and the row's constraint holds (R82). -/
def Row.hits (r : Row) (w : TWord) : Bool := w &&& r.mask == r.pattern && r.constraint w

/-- A row with no constraint. -/
def Row.free (mnemonic : String) (mask pattern : TWord) (build : TWord → Instr) : Row :=
  ⟨mnemonic, mask, pattern, fun _ => true, build⟩

/-- The group operand i = A[6:1] of the IDX reads (R81). -/
def fieldGroup (w : TWord) : Nat := (w.extractLsb' 9 6).toNat

/-- Rows 1 to 14 and 16 to 22 of R83: every row but the two catch-all rows, in the table's order. -/
def opcodeMap : List Row :=
  [ Row.free "RD.MB" 0x1E000 0x00000 fun w => .rdMb (w.extractLsb' 8 5).toFin,
    Row.free "RD.CSUM" 0x1FF00 0x02000 fun _ => .rdCsum,
    Row.free "RD.CTRL" 0x1FF00 0x04000 fun _ => .rdCtrl,
    Row.free "RD.STATUS" 0x1FF00 0x04100 fun _ => .rdStatus,
    Row.free "RD.ERRCODE" 0x1FF00 0x04200 fun _ => .rdErrcode,
    Row.free "RD.ENT_CNT" 0x1FF00 0x04300 fun _ => .rdEntCnt,
    Row.free "RD.ENT_IN" 0x1FF00 0x04400 fun _ => .rdEntIn,
    Row.free "RD.PHR_DATA" 0x1FF00 0x04500 fun _ => .rdPhrData,
    Row.free "RD.WSEL_HI" 0x1FF00 0x04600 fun _ => .rdWselHi,
    Row.free "RD.WSEL_LO" 0x1FF00 0x04700 fun _ => .rdWselLo,
    Row.free "RD.WLEN" 0x1FF00 0x04800 fun _ => .rdWlen,
    Row.free "RD.WCHR" 0x1F000 0x05000 fun w => .rdWchr (w.extractLsb' 8 4).toFin,
    ⟨"RD.IDX_HI", 0x18100, 0x08000, fun w => fieldGroup w ≤ 23, fun w => .rdIdxHi (Fin.ofNat 24 (fieldGroup w))⟩,
    ⟨"RD.IDX_LO", 0x18100, 0x08100, fun w => fieldGroup w ≤ 23, fun w => .rdIdxLo (Fin.ofNat 24 (fieldGroup w))⟩,
    Row.free "WR.CTRL.CLEAR" 0x1FF02 0x14002 fun _ => .wrCtrlClear,
    Row.free "WR.CTRL.START" 0x1FF03 0x14001 fun _ => .wrCtrlStart,
    Row.free "WR.CTRL.PRW" 0x1FF07 0x14004 fun _ => .wrCtrlPrw,
    Row.free "WR.CTRL.NOP" 0x1FF07 0x14000 fun _ => .wrCtrlNop,
    Row.free "WR.ENT_IN" 0x1FF00 0x14400 fun w => .wrEntIn (w.extractLsb' 0 8),
    Row.free "WR.WSEL_HI" 0x1FF00 0x14600 fun w => .wrWselHi (w.extractLsb' 0 3),
    Row.free "WR.WSEL_LO" 0x1FF00 0x14700 fun w => .wrWselLo (w.extractLsb' 0 8) ]

/-- Rows 15 and 23, RD.RSVD and WR.ILLEGAL: they match every word of their kind and so apply exactly when no earlier row of
that kind does (R82). -/
def catchAll (w : TWord) : Instr :=
  if fieldW w then .wrIllegal (fieldA w) (fieldD w) else .rdRsvd (fieldA w)

/-- Decode: the first row of the map that the word is in (R82). Total: every one of the 2^17 words is one operation. -/
def decode (w : TWord) : Instr :=
  match opcodeMap.find? (·.hits w) with
  | some r => r.build w
  | none => catchAll w

/-- Why a number is no transaction word. -/
inductive DecodeReject where
  /-- It does not fit in 17 bits: there is one format and one length (R80, R86). Raised by `decodeNat` only; the bus pins
  cannot carry such a word, so no step meets it (safe). -/
  | widerThanATransaction
  deriving DecidableEq, Repr

/-- Decode a number of any width: a transaction word is exactly 17 bits (R80, R86). -/
def decodeNat (v : Nat) : Except DecodeReject Instr :=
  if v < 2 ^ 17 then .ok (decode (BitVec.ofNat 17 v)) else .error .widerThanATransaction

/-- The transaction word of an operation, with every ignored bit 0 (R83, R88; the T of each operation's rule). -/
def encode : Instr → TWord
  | .rdMb j => 0x00000#17 ||| (BitVec.ofNat 17 j.val <<< 8)
  | .rdCsum => 0x02000#17
  | .rdCtrl => 0x04000#17
  | .rdStatus => 0x04100#17
  | .rdErrcode => 0x04200#17
  | .rdEntCnt => 0x04300#17
  | .rdEntIn => 0x04400#17
  | .rdPhrData => 0x04500#17
  | .rdWselHi => 0x04600#17
  | .rdWselLo => 0x04700#17
  | .rdWlen => 0x04800#17
  | .rdWchr j => 0x05000#17 ||| (BitVec.ofNat 17 j.val <<< 8)
  | .rdIdxHi i => 0x08000#17 ||| (BitVec.ofNat 17 i.val <<< 9)
  | .rdIdxLo i => 0x08100#17 ||| (BitVec.ofNat 17 i.val <<< 9)
  | .rdRsvd a => tword false a 0
  | .wrCtrlClear => 0x14002#17
  | .wrCtrlStart => 0x14001#17
  | .wrCtrlPrw => 0x14004#17
  | .wrCtrlNop => 0x14000#17
  | .wrEntIn d => 0x14400#17 ||| d.setWidth 17
  | .wrWselHi d => 0x14600#17 ||| d.setWidth 17
  | .wrWselLo d => 0x14700#17 ||| d.setWidth 17
  | .wrIllegal a d => tword true a d

/-- The operation the decoder reads from a transaction word numbered as the opcode table numbers it (bit 0 of the number is
T[0]); bits above `nbits` are 0. -/
def decodeTableWord (nbits w : Nat) : Option Instr := (decodeNat (w % 2 ^ nbits)).toOption

end Sys2Proof
end

