-- ==== Sys2Proof/Machine/State.lean ====
section
/-! DEFINITION. The state of GB39-ENC: the elements of R21, the output port of R20, and the host's coming clock cycles. -/

namespace Sys2Proof.Machine

/-- The input pins in one clock cycle (R20), and the engine's choice in it. -/
structure Cycle where
  /-- `rst`: synchronous reset, active high (R250). -/
  rst : Bool
  /-- `bus_sel`: a bus transaction is issued in this cycle. -/
  sel : Bool
  /-- `bus_we`: it is a write. -/
  we : Bool
  /-- `bus_addr`. -/
  addr : Byte
  /-- `bus_wdata`; ignored by reads. -/
  wdata : Byte
  /-- The open delay ENC_LATENCY (R5, R127): an enabled completion fires at the edge that ends this cycle. DESIGN CHOICE,
  safe: log entry 5. -/
  fire : Bool
  deriving DecidableEq, Repr

/-- The state: the ten elements of R21, the read data of R20, and the inputs still to come. -/
@[ext]
structure State where
  /-- MB[0..32], the Mnemonic Buffer: 32 entropy bytes and the checksum byte (R22). -/
  mb : Vector Byte 33
  /-- ENT_CNT, entropy bytes accepted (R23). -/
  entCnt : BitVec 6
  /-- IDX[0..23], the word indices (R24). -/
  idx : Vector Index 24
  /-- BUSY, the encode engine is pending (R25). -/
  busy : Bool
  /-- DONE, the results are valid (R26). -/
  done : Bool
  /-- ERRCODE: 0 none, 1 LEN_SHORT, 2 LEN_LONG (R27). -/
  errcode : BitVec 2
  /-- ACCERR, the sticky illegal-access flag (R28). -/
  accerr : Bool
  /-- PTR, the phrase stream position (R29). -/
  ptr : BitVec 9
  /-- WSEL, the word ROM lookup index (R30). -/
  wsel : Index
  /-- `bus_rdata`, as driven in the last clock cycle; 0x00 where there was no read (R20). DEDUCED, safe: log entry 10. -/
  rdata : Byte
  /-- The model's own field: the clock cycles to come, the host's pins and the engine's choices. DESIGN CHOICE, safe: log
  entries 5 and 7. -/
  inputs : List Cycle
  deriving DecidableEq, Repr

/-- Why the machine stops: never. "GB39-ENC raises no trap and stops no agent" (R220), so there is no reason and no one
raises it (safe: nothing the hardware does is cut short). DEDUCED: log entry 17. -/
inductive Fault where
  deriving DecidableEq, Repr

/-- Why a transaction has no meaning. -/
inductive Refusal where
  /-- An operation whose meaning is not written yet. Raised by no arm of exec: every operation of the opcode map has its
  meaning (safe if it were raised: the model stops where the hardware goes on). -/
  | notModelled (mnemonic : String)
  deriving DecidableEq, Repr

/-- The state right after reset (R40, R252): every element 0. `rdata` is 0x00, as where there is no read (R20); no input has
been given yet (`inputs`, the model's own field: DESIGN CHOICE, log entry 7). -/
def State.reset : State where
  mb := Vector.replicate 33 0
  entCnt := 0
  idx := Vector.replicate 24 0
  busy := false
  done := false
  errcode := 0
  accerr := false
  ptr := 0
  wsel := 0
  rdata := 0
  inputs := []

end Sys2Proof.Machine
end

