-- ==== Sys2Proof/Machine/Ops.lean ====
section
/-! DEFINITION. The named operations on the state. Every meaning is written over these; each writes what its rule says and
nothing else. The error events (R222) and the illegal-access flag (R226) are one operation each, `State.raiseLen` and
`State.flagAccErr`; there is no return from an event (R231). -/

namespace Sys2Proof.Machine

/-- Drive `bus_rdata` with the byte a read returns (R20, R51). -/
def State.drive (s : State) (b : Byte) : State := { s with rdata := b }

/-- `flag AccErr()`: ACCERR <- 1 and nothing else (R226). -/
def State.flagAccErr (s : State) : State := { s with accerr := true }

/-- The error code of LenShort (R27, R222). -/
def lenShort : BitVec 2 := 1

/-- The error code of LenLong (R27, R222). -/
def lenLong : BitVec 2 := 2

/-- `raise LenShort()` and `raise LenLong()`: ERRCODE <- the code, DONE <- 0, PTR <- 0 and nothing else (R222). -/
def State.raiseLen (s : State) (code : BitVec 2) : State := { s with errcode := code, done := false, ptr := 0 }

/-- An accepted push: MB[ENT_CNT] <- d, ENT_CNT <- ENT_CNT + 1 (R102). The caller has checked ENT_CNT < 32. -/
def State.pushByte (s : State) (d : Byte) : State :=
  { s with mb := s.mb.setIfInBounds s.entCnt.toNat d, entCnt := s.entCnt + 1 }

/-- An accepted START: BUSY <- 1, DONE <- 0, PTR <- 0 (R121). -/
def State.beginEncode (s : State) : State := { s with busy := true, done := false, ptr := 0 }

/-- The completion's writes, from the checksum and the 24 indices: MB[32], IDX, BUSY <- 0, DONE <- 1, PTR <- 0, in one atomic
step (R57, R127). -/
def State.storeResults (s : State) (c : Byte) (idx : Vector Index 24) : State :=
  { s with mb := s.mb.set 32 c, idx := idx, busy := false, done := true, ptr := 0 }

/-- PTR <- PTR + 1 (R172). The caller has checked PTR < PLEN. -/
def State.advancePtr (s : State) : State := { s with ptr := s.ptr + 1 }

/-- PTR <- 0 (R173). -/
def State.rewindPtr (s : State) : State := { s with ptr := 0 }

/-- WSEL <- v (R153, R154). -/
def State.setWsel (s : State) (v : Index) : State := { s with wsel := v }

/-- Every state element of R21 takes its value in R40; the ports are not touched (R190). -/
def State.clearElements (s : State) : State := { State.reset with rdata := s.rdata, inputs := s.inputs }

/-- A read of a result that is valid only while DONE = 1: the value, or 0x00 and ACCERR (R53, "R, gated"). -/
def gatedRead (value : State → Byte) (s : State) : State :=
  if s.done then s.drive (value s) else s.flagAccErr.drive 0x00

/-- BUSY = 1 or ERRCODE ≠ 0: a push or a START is refused by AccErr (R228). -/
def State.refusesLoad (s : State) : Bool := s.busy || s.errcode != 0

/-- A clock cycle in which the host does nothing. Where no input is listed the host stays idle for good, and the engine, which
completes eventually (weak fairness, R127), completes then. DESIGN CHOICE, unsafe if an engine can hang: log entry 6. -/
def quietCycle : Cycle where
  rst := false
  sel := false
  we := false
  addr := 0
  wdata := 0
  fire := true

/-- The pins of the cycle that begins now. -/
def State.nextCycle (s : State) : Cycle := s.inputs.headD quietCycle

/-- The cycle begins: its inputs are taken, and `bus_rdata` is 0x00 unless a read drives it (R20). -/
def State.beginCycle (s : State) : State := { s with inputs := s.inputs.tail, rdata := 0x00 }

/-- An edge with rst = 1: every element takes its reset value, which cancels a pending completion; the transaction on the
pins, if any, has no effect and a read returns 0x00 (R250). -/
def State.resetEdge (s : State) : State := s.clearElements.drive 0x00

end Sys2Proof.Machine
end

