-- ==== Sys2Proof/Machine/BufferLoad.lean ====
section
/-! DEFINITION. Entropy load and Mnemonic Buffer reads (40_buffer_load.md). A meaning begins in a cycle whose read data is
already 0x00 (`State.beginCycle`); a read drives its byte, a write leaves the read data alone. -/

namespace Sys2Proof.Machine

/-- RD.MB: return MB[j], in every state (R103). -/
def execRdMb (j : Fin 32) (s : State) : Host.Outcome State Fault Refusal := .next (s.drive s.mb[j.val])

/-- RD.ENT_CNT: return zext_8(ENT_CNT) (R104). -/
def execRdEntCnt (s : State) : Host.Outcome State Fault Refusal := .next (s.drive (s.entCnt.setWidth 8))

/-- RD.ENT_IN: return 0x00; nothing is pushed and ACCERR is not set (R105). -/
def execRdEntIn (s : State) : Host.Outcome State Fault Refusal := .next (s.drive 0x00)

/-- WR.ENT_IN: AccErr while BUSY or in the error state; else push d while fewer than 32 bytes are loaded; else LenLong, the
byte dropped (R102, R228). -/
def execWrEntIn (d : Byte) (s : State) : Host.Outcome State Fault Refusal :=
  if s.refusesLoad then .next s.flagAccErr
  else if s.entCnt.toNat < 32 then .next (s.pushByte d)
  else .next (s.raiseLen lenLong)

end Sys2Proof.Machine
end

