-- ==== Sys2Proof/Config.lean ====
section
/-! DEFINITION. What is fixed when the block is built (R5): the entry width of the word ROM and its open content.
HASH, the other parameter of R5, is `Sys2Proof.Machine.hash` (Machine/Sha256.lean); ENC_LATENCY is open and is the
`fire` bit of each clock cycle (Machine/State.lean). -/

namespace Sys2Proof.Config

/-- WMAX, the longest word in bytes: 8 on this hardware (R5, R151). PRESUMED (G4: it fits the English list), unsafe for a
ROM with longer words: log entry 4. -/
abbrev wmax : Nat := 8

/-- FREE VALUE. `wordLast k` is the position of the last byte of ROM entry k, so the entry has `wordLast k + 1` bytes,
1 to WMAX (R150, R151). WORDLIST is OPEN (R5, I2). DESIGN CHOICE, safe: log entry 3. -/
opaque wordLast : Index → Fin wmax

/-- FREE VALUE. `wordChar k j` is the code of byte j of ROM entry k: one of the 253 byte values that R150 allows in a word
(all but 0x00, 0x0A and 0x20), see `Sys2Proof.Machine.charByte`. DESIGN CHOICE, safe: log entry 3. -/
opaque wordChar : Index → Fin wmax → Fin 253

end Sys2Proof.Config
end

