-- ==== Sys2Proof/Machine/Rom.lean ====
section
/-! DEFINITION. The word ROM (R31, R150 to R152): what a word may be, how a ROM is built from an asset, and the ROM of this
hardware, whose content is open. -/

namespace Sys2Proof.Machine

/-- A byte a word may hold: any but 0x00, 0x20 and 0x0A (R150). -/
def wordByteOk (b : Byte) : Bool := b != 0x00 && b != 0x20 && b != 0x0A

/-- The constraint on a ROM entry: 1 to WMAX bytes, each allowed (R150). -/
def wordOk (w : List Byte) : Bool := 1 ≤ w.length && w.length ≤ Config.wmax && w.all wordByteOk

/-- An asset split at 0x0A (R150). No line is dropped and no byte removed: an end of the asset after a final 0x0A is one more
line, an empty one (N7 leaves open what a loader does there). DESIGN CHOICE, safe: log entry 15. -/
def splitLines : List Byte → List (List Byte)
  | [] => [[]]
  | b :: bs =>
    if b = 0x0A then [] :: splitLines bs
    else
      match splitLines bs with
      | [] => [[b]]
      | l :: ls => (b :: l) :: ls

/-- Why no block is built (R225). -/
inductive ConfigRefusal where
  /-- The asset has fewer than 2048 lines (R150). Raised by `buildRom`, before any step (safe). -/
  | tooFewLines
  /-- One of the first 2048 lines is no allowed word (R150). Raised by `buildRom`, before any step (safe). -/
  | badEntry
  deriving DecidableEq, Repr

/-- The entries of a ROM from the lines of an asset: the first 2048, each checked, or a refusal (R150). -/
def romOfLines (lines : List (List Byte)) : Except ConfigRefusal (List (List Byte)) :=
  if lines.length < 2048 then .error .tooFewLines
  else if (lines.take 2048).all wordOk then .ok (lines.take 2048)
  else .error .badEntry

/-- Build a ROM from an asset (R150). No step of the block does this: the ROM is fixed before the block exists (R225). -/
def buildRom (asset : List Byte) : Except ConfigRefusal (List (List Byte)) := romOfLines (splitLines asset)

/-- The 253 allowed byte values in rising order: 0x01-0x09, 0x0B-0x1F, 0x21-0xFF. -/
def charByte (c : Fin 253) : Byte :=
  BitVec.ofNat 8 (if c.val < 9 then c.val + 1 else if c.val < 30 then c.val + 2 else c.val + 3)

/-- A word from the position of its last byte and the codes of its bytes: the length and data bytes of a ROM entry (R151). -/
def wordOf (last : Fin Config.wmax) (chars : Fin Config.wmax → Fin 253) : List Byte :=
  ((List.finRange Config.wmax).take (last.val + 1)).map fun j => charByte (chars j)

/-- ROM(k), total on the 2048 indices (R152), constant (R31), of open content (R5). -/
def rom (k : Index) : List Byte := wordOf (Config.wordLast k) (Config.wordChar k)

end Sys2Proof.Machine
end

