-- ==== Sys2Proof/Machine/Operands.lean ====
section
/-! DEFINITION. The values the operations compute: the halves of an 11-bit register (R55), the Bit Extractor and its 24 lanes
(R7, R8, R123), the checksum (R122) and the phrase (R170). What depends on a configuration parameter takes it as an
argument here. -/

namespace Sys2Proof.Machine

/-- v[10:8] widened with zeros: what the high register of an 11-bit pair reads (R55). -/
def highByte (v : Index) : Byte := (v.extractLsb' 8 3).setWidth 8

/-- v[7:0]: what the low register of an 11-bit pair reads (R55). -/
def lowByte (v : Index) : Byte := v.extractLsb' 0 8

/-- (d << 8) | v[7:0] (R153). -/
def withHigh (v : Index) (d : BitVec 3) : Index := d ++ v.extractLsb' 0 8

/-- (v[10:8] << 8) | d (R154). -/
def withLow (v : Index) (d : Byte) : Index := v.extractLsb' 8 3 ++ d

/-- bit(data, p): the bit at buffer position p, counted MSB first (R7). -/
def bufBit {n : Nat} (data : Vector Byte n) (p : Nat) (h : p < 8 * n) : Bool :=
  data[p / 8].getLsbD (7 - p % 8)

/-- Extract(data, low, high), the sum of R8. It is defined only inside its precondition, which it takes as a proof (I6).
DESIGN CHOICE, safe: log entry 19. -/
def extract {n : Nat} (data : Vector Byte n) (low high : Nat) (h : low < high ∧ high ≤ 8 * n) : Nat :=
  ((List.finRange (high - low)).map fun k =>
    (bufBit data (low + k.val) (by have := k.isLt; omega)).toNat * 2 ^ (high - 1 - (low + k.val))).sum

/-- LANE(i, MB): extractor lane i (R123). -/
def lane (mb : Vector Byte 33) (i : Fin 24) : Index :=
  BitVec.ofNat 11 (extract mb (11 * i.val) (11 * i.val + 11) (by omega))

/-- All 24 lanes at once (R123, R127). -/
def lanes (mb : Vector Byte 33) : Vector Index 24 := Vector.ofFn (lane mb)

/-- MB[0..31], the entropy. -/
def entropy (mb : Vector Byte 33) : Vector Byte 32 := mb.pop

/-- CSUM_VALUE(MB): byte 0 of the hash H of the 32 entropy bytes (R122). -/
def checksum (H : Vector Byte 32 → Vector Byte 32) (mb : Vector Byte 33) : Byte := (H (entropy mb))[0]

/-- Byte j of a word, or 0x00 past its end (R151, R158). -/
def paddedByte (w : List Byte) (j : Nat) : Byte := w.getD j 0x00

/-- The phrase P of a ROM and an index file: the 24 words joined by 0x20, then 0x0A (R170). Its length is PLEN. -/
def phraseOf (words : Index → List Byte) (idx : Vector Index 24) : List Byte :=
  List.intercalate [0x20] (idx.toList.map words) ++ [0x0A]

/-- P, of the current IDX and this block's ROM (R170). -/
def State.phrase (s : State) : List Byte := phraseOf rom s.idx

/-- PLEN = len(P) (R170). -/
def State.plen (s : State) : Nat := s.phrase.length

end Sys2Proof.Machine
end

