-- ==== Sys2Proof/Machine/Flags.lean ====
section
/-! DEFINITION. The flags of STATUS that are derived, not stored, and the STATUS byte (R32, R171, R193). -/

namespace Sys2Proof.Machine

/-- STATUS.ERR: ERRCODE ≠ 0 (R32). -/
def State.err (s : State) : Bool := s.errcode != 0

/-- STATUS.PEND: DONE = 1 and PTR = PLEN, the whole phrase has been read (R32, R171). -/
def State.pend (s : State) : Bool := s.done && s.ptr.toNat == s.plen

/-- The STATUS byte: zext_8(PEND·16 + ACCERR·8 + ERR·4 + DONE·2 + BUSY) (R32, R193). -/
def State.status (s : State) : Byte :=
  BitVec.ofNat 8 (s.pend.toNat * 16 + s.accerr.toNat * 8 + s.err.toNat * 4 + s.done.toNat * 2 + s.busy.toNat)

end Sys2Proof.Machine
end

