-- ==== Sys2Proof/Machine/ControlStatus.lean ====
section
/-! DEFINITION. Control, status and illegal accesses (44_control_status.md). -/

namespace Sys2Proof.Machine

/-- WR.CTRL.CLEAR: every state element takes its reset value, in every state (R190). -/
def execWrCtrlClear (s : State) : Host.Outcome State Fault Refusal := .next s.clearElements

/-- WR.CTRL.NOP: the state is unchanged (R191). -/
def execWrCtrlNop (s : State) : Host.Outcome State Fault Refusal := .next s

/-- RD.CTRL: return 0x00 (R192). -/
def execRdCtrl (s : State) : Host.Outcome State Fault Refusal := .next (s.drive 0x00)

/-- RD.STATUS: return the STATUS byte (R193). -/
def execRdStatus (s : State) : Host.Outcome State Fault Refusal := .next (s.drive s.status)

/-- RD.ERRCODE: return zext_8(ERRCODE) (R194). -/
def execRdErrcode (s : State) : Host.Outcome State Fault Refusal := .next (s.drive (s.errcode.setWidth 8))

/-- RD.RSVD: AccErr, return 0x00 (R195). -/
def execRdRsvd (_a : Byte) (s : State) : Host.Outcome State Fault Refusal := .next (s.flagAccErr.drive 0x00)

/-- WR.ILLEGAL: AccErr, and nothing else changes (R196). -/
def execWrIllegal (_a _d : Byte) (s : State) : Host.Outcome State Fault Refusal := .next s.flagAccErr

end Sys2Proof.Machine
end

