-- ==== Sys2Proof/Machine/Sha256.lean ====
section
/-! DEFINITION. HASH, the digest parameter of R5: SHA-256 (FIPS 180-4) of a 32-byte string. The spec takes SHA-256 "from
general knowledge, not in source" (D2, G1), and its algorithm is taken from there too. PRESUMED, unsafe where a chip takes
another hash: log entries 1 and 2. The meanings use it only through `hash`; operations that hold for every hash take it as an
argument. -/

namespace Sys2Proof.Machine.Sha256

/-- A 32-bit word of SHA-256. -/
abbrev W32 := BitVec 32

/-- The 64 round constants. -/
def roundConstants : List W32 :=
  [0x428a2f98, 0x71374491, 0xb5c0fbcf, 0xe9b5dba5, 0x3956c25b, 0x59f111f1, 0x923f82a4, 0xab1c5ed5] ++
  [0xd807aa98, 0x12835b01, 0x243185be, 0x550c7dc3, 0x72be5d74, 0x80deb1fe, 0x9bdc06a7, 0xc19bf174] ++
  [0xe49b69c1, 0xefbe4786, 0x0fc19dc6, 0x240ca1cc, 0x2de92c6f, 0x4a7484aa, 0x5cb0a9dc, 0x76f988da] ++
  [0x983e5152, 0xa831c66d, 0xb00327c8, 0xbf597fc7, 0xc6e00bf3, 0xd5a79147, 0x06ca6351, 0x14292967] ++
  [0x27b70a85, 0x2e1b2138, 0x4d2c6dfc, 0x53380d13, 0x650a7354, 0x766a0abb, 0x81c2c92e, 0x92722c85] ++
  [0xa2bfe8a1, 0xa81a664b, 0xc24b8b70, 0xc76c51a3, 0xd192e819, 0xd6990624, 0xf40e3585, 0x106aa070] ++
  [0x19a4c116, 0x1e376c08, 0x2748774c, 0x34b0bcb5, 0x391c0cb3, 0x4ed8aa4a, 0x5b9cca4f, 0x682e6ff3] ++
  [0x748f82ee, 0x78a5636f, 0x84c87814, 0x8cc70208, 0x90befffa, 0xa4506ceb, 0xbef9a3f7, 0xc67178f2]

/-- The eight working variables a to h, and the eight words of a digest. -/
structure Eight where
  a : W32
  b : W32
  c : W32
  d : W32
  e : W32
  f : W32
  g : W32
  h : W32
  deriving DecidableEq, Repr

/-- The initial hash value. -/
def initial : Eight :=
  ⟨0x6a09e667, 0xbb67ae85, 0x3c6ef372, 0xa54ff53a,
   0x510e527f, 0x9b05688c, 0x1f83d9ab, 0x5be0cd19⟩

/-- Σ0. -/
def bigSigma0 (x : W32) : W32 := x.rotateRight 2 ^^^ x.rotateRight 13 ^^^ x.rotateRight 22

/-- Σ1. -/
def bigSigma1 (x : W32) : W32 := x.rotateRight 6 ^^^ x.rotateRight 11 ^^^ x.rotateRight 25

/-- σ0. -/
def smallSigma0 (x : W32) : W32 := x.rotateRight 7 ^^^ x.rotateRight 18 ^^^ (x >>> 3)

/-- σ1. -/
def smallSigma1 (x : W32) : W32 := x.rotateRight 17 ^^^ x.rotateRight 19 ^^^ (x >>> 10)

/-- Ch. -/
def choose (x y z : W32) : W32 := (x &&& y) ^^^ (~~~x &&& z)

/-- Maj. -/
def majority (x y z : W32) : W32 := (x &&& y) ^^^ (x &&& z) ^^^ (y &&& z)

/-- One round with constant k and schedule word w. -/
def round (v : Eight) (k w : W32) : Eight :=
  let t1 := v.h + bigSigma1 v.e + choose v.e v.f v.g + k + w
  let t2 := bigSigma0 v.a + majority v.a v.b v.c
  ⟨t1 + t2, v.a, v.b, v.c, v.d + t1, v.e, v.f, v.g⟩

/-- The next word of the message schedule, from the window of the last sixteen. -/
def nextWord (window : List W32) : W32 :=
  smallSigma1 (window.getD 14 0) + window.getD 9 0 + smallSigma0 (window.getD 1 0) + window.getD 0 0

/-- The rounds for the constants that are left; the window holds the schedule word of this round and the fifteen after it. -/
def rounds : List W32 → List W32 → Eight → Eight
  | [], _, v => v
  | k :: ks, window, v => rounds ks (window.tail ++ [nextWord window]) (round v k (window.getD 0 0))

/-- Process one block of sixteen words. -/
def compress (block : List W32) (h : Eight) : Eight :=
  let v := rounds roundConstants block h
  ⟨h.a + v.a, h.b + v.b, h.c + v.c, h.d + v.d, h.e + v.e, h.f + v.f, h.g + v.g, h.h + v.h⟩

/-- The word of message bytes 4i to 4i+3, most significant byte first. -/
def messageWord (msg : Vector Byte 32) (i : Fin 8) : W32 :=
  msg[4 * i.val] ++ msg[4 * i.val + 1] ++ msg[4 * i.val + 2] ++ msg[4 * i.val + 3]

/-- The one padded block of a 32-byte message: its eight words, the bit 1, zeros, and the length of 256 bits. -/
def paddedBlock (msg : Vector Byte 32) : List W32 :=
  (List.finRange 8).map (messageWord msg) ++ [0x80000000, 0, 0, 0, 0, 0, 0, 256]

/-- Byte j (0 most significant) of a word. -/
def wordByte (w : W32) (j : Nat) : Byte := w.extractLsb' (24 - 8 * j) 8

/-- The digest as 32 bytes, each word most significant byte first (G3). -/
def digestBytes (v : Eight) : Vector Byte 32 :=
  #v[wordByte v.a 0, wordByte v.a 1, wordByte v.a 2, wordByte v.a 3, wordByte v.b 0, wordByte v.b 1, wordByte v.b 2,
    wordByte v.b 3, wordByte v.c 0, wordByte v.c 1, wordByte v.c 2, wordByte v.c 3, wordByte v.d 0, wordByte v.d 1,
    wordByte v.d 2, wordByte v.d 3, wordByte v.e 0, wordByte v.e 1, wordByte v.e 2, wordByte v.e 3, wordByte v.f 0,
    wordByte v.f 1, wordByte v.f 2, wordByte v.f 3, wordByte v.g 0, wordByte v.g 1, wordByte v.g 2, wordByte v.g 3,
    wordByte v.h 0, wordByte v.h 1, wordByte v.h 2, wordByte v.h 3]

/-- SHA-256 of a 32-byte message. -/
def digest (msg : Vector Byte 32) : Vector Byte 32 := digestBytes (compress (paddedBlock msg) initial)

end Sys2Proof.Machine.Sha256

namespace Sys2Proof.Machine

/-- HASH (R5): the configured 256-bit digest of 32 bytes, byte 0 first. PRESUMED: log entries 1 and 2. -/
def hash (msg : Vector Byte 32) : Vector Byte 32 := Sha256.digest msg

end Sys2Proof.Machine
end

