-- ==== Sys2Proof/Machine/Encode.lean ====
section
/-! DEFINITION. Encoding (41_encode.md): START, the engine's completion step, and the result reads. -/

namespace Sys2Proof.Machine

/-- WR.CTRL.START: AccErr while BUSY or in the error state; LenShort with fewer than 32 bytes loaded; else BUSY <- 1,
DONE <- 0, PTR <- 0 (R121, R228). -/
def execWrCtrlStart (s : State) : Host.Outcome State Fault Refusal :=
  if s.refusesLoad then .next s.flagAccErr
  else if s.entCnt.toNat < 32 then .next (s.raiseLen lenShort)
  else .next s.beginEncode

/-- ENC.COMPLETE for a hash H: the checksum of MB, and all 24 lanes over the entropy and that checksum (R127). -/
def completeWith (H : Vector Byte 32 → Vector Byte 32) (s : State) : State :=
  s.storeResults (checksum H s.mb) (lanes (s.mb.set 32 (checksum H s.mb)))

/-- ENC.COMPLETE of this block (R127). It is the engine's step, not a bus operation (R87). -/
def encComplete (s : State) : State := completeWith hash s

/-- The engine at the edge that ends a cycle. The completion fires if the cycle's choice says so and BUSY = 1 both when the
cycle began and after its transaction: it comes after the transaction of its cycle, a CLEAR there cancels it (R229), and it
comes at least one cycle after the START (R127). DEDUCED, unsafe only for an engine that completes in START's own cycle: log
entry 11. -/
def engineEdge (fire wasBusy : Bool) (s : State) : State :=
  match fire && wasBusy && s.busy with
  | true => encComplete s
  | false => s

/-- RD.CSUM: MB[32] if DONE, else 0x00 and ACCERR (R128). -/
def execRdCsum (s : State) : Host.Outcome State Fault Refusal := .next (gatedRead (fun t => t.mb[32]) s)

/-- RD.IDX_HI: zext_8(IDX[i][10:8]) if DONE, else 0x00 and ACCERR (R129). -/
def execRdIdxHi (i : Fin 24) (s : State) : Host.Outcome State Fault Refusal :=
  .next (gatedRead (fun t => highByte t.idx[i.val]) s)

/-- RD.IDX_LO: IDX[i][7:0] if DONE, else 0x00 and ACCERR (R130). -/
def execRdIdxLo (i : Fin 24) (s : State) : Host.Outcome State Fault Refusal :=
  .next (gatedRead (fun t => lowByte t.idx[i.val]) s)

end Sys2Proof.Machine
end

