-- ==== Sys2Proof/Machine/Lookup.lean ====
section
/-! DEFINITION. The word ROM lookup port (42_wordrom.md). It does not depend on BUSY, DONE or ERRCODE (R159). -/

namespace Sys2Proof.Machine

/-- WR.WSEL_HI: WSEL <- (d << 8) | WSEL[7:0] (R153). -/
def execWrWselHi (d : BitVec 3) (s : State) : Host.Outcome State Fault Refusal := .next (s.setWsel (withHigh s.wsel d))

/-- WR.WSEL_LO: WSEL <- (WSEL[10:8] << 8) | d (R154). -/
def execWrWselLo (d : Byte) (s : State) : Host.Outcome State Fault Refusal := .next (s.setWsel (withLow s.wsel d))

/-- RD.WSEL_HI: return zext_8(WSEL[10:8]) (R155). -/
def execRdWselHi (s : State) : Host.Outcome State Fault Refusal := .next (s.drive (highByte s.wsel))

/-- RD.WSEL_LO: return WSEL[7:0] (R156). -/
def execRdWselLo (s : State) : Host.Outcome State Fault Refusal := .next (s.drive (lowByte s.wsel))

/-- RD.WLEN: return zext_8(len(ROM(WSEL))) (R157). -/
def execRdWlen (s : State) : Host.Outcome State Fault Refusal :=
  .next (s.drive (BitVec.ofNat 8 (rom s.wsel).length))

/-- RD.WCHR: return byte j of ROM(WSEL), or 0x00 past its end (R158). -/
def execRdWchr (j : Fin 16) (s : State) : Host.Outcome State Fault Refusal :=
  .next (s.drive (paddedByte (rom s.wsel) j.val))

end Sys2Proof.Machine
end

