-- ==== Sys2Proof/Machine/Phrase.lean ====
section
/-! DEFINITION. The phrase stream (43_phrase.md). -/

namespace Sys2Proof.Machine

/-- RD.PHR_DATA: with DONE = 0, 0x00 and ACCERR; with PTR < PLEN, P[PTR] and PTR <- PTR + 1; past the end, 0x00 with no
side effect (R172). -/
def execRdPhrData (s : State) : Host.Outcome State Fault Refusal :=
  if s.done then
    match s.phrase[s.ptr.toNat]? with
    | some b => .next (s.advancePtr.drive b)
    | none => .next (s.drive 0x00)
  else .next (s.flagAccErr.drive 0x00)

/-- WR.CTRL.PRW: PTR <- 0 (R173). -/
def execWrCtrlPrw (s : State) : Host.Outcome State Fault Refusal := .next s.rewindPtr

end Sys2Proof.Machine
end

