-- ==== Sys2Proof/Machine/Dispatch.lean ====
section
/-! DEFINITION. The meaning of every operation, one arm per row of the opcode map. -/

namespace Sys2Proof.Machine

def exec (i : Instr) (s : State) : Host.Outcome State Fault Refusal :=
  match i with
  | .rdMb j => Sys2Proof.Machine.execRdMb j s
  | .rdCsum => Sys2Proof.Machine.execRdCsum s
  | .rdCtrl => Sys2Proof.Machine.execRdCtrl s
  | .rdStatus => Sys2Proof.Machine.execRdStatus s
  | .rdErrcode => Sys2Proof.Machine.execRdErrcode s
  | .rdEntCnt => Sys2Proof.Machine.execRdEntCnt s
  | .rdEntIn => Sys2Proof.Machine.execRdEntIn s
  | .rdPhrData => Sys2Proof.Machine.execRdPhrData s
  | .rdWselHi => Sys2Proof.Machine.execRdWselHi s
  | .rdWselLo => Sys2Proof.Machine.execRdWselLo s
  | .rdWlen => Sys2Proof.Machine.execRdWlen s
  | .rdWchr j => Sys2Proof.Machine.execRdWchr j s
  | .rdIdxHi g => Sys2Proof.Machine.execRdIdxHi g s
  | .rdIdxLo g => Sys2Proof.Machine.execRdIdxLo g s
  | .rdRsvd a => Sys2Proof.Machine.execRdRsvd a s
  | .wrCtrlClear => Sys2Proof.Machine.execWrCtrlClear s
  | .wrCtrlStart => Sys2Proof.Machine.execWrCtrlStart s
  | .wrCtrlPrw => Sys2Proof.Machine.execWrCtrlPrw s
  | .wrCtrlNop => Sys2Proof.Machine.execWrCtrlNop s
  | .wrEntIn d => Sys2Proof.Machine.execWrEntIn d s
  | .wrWselHi d => Sys2Proof.Machine.execWrWselHi d s
  | .wrWselLo d => Sys2Proof.Machine.execWrWselLo d s
  | .wrIllegal a d => Sys2Proof.Machine.execWrIllegal a d s

end Sys2Proof.Machine
end

