-- ==== Sys2Proof/Machine/Cycle.lean ====
section
/-! DEFINITION. One clock cycle: the host's transaction, if any, and then the engine's completion, if it falls there (R51,
R62, R229, R250). DEDUCED, safe: log entry 9. -/

namespace Sys2Proof.Machine

/-- The transaction word on the pins (R80). -/
def Cycle.word (c : Cycle) : TWord := tword c.we c.addr c.wdata

/-- The host's part of a cycle with rst = 0: the transaction it issues, if `bus_sel` = 1 (R51). -/
def busPhase (c : Cycle) (s : State) : Host.Outcome State Fault Refusal :=
  if c.sel then exec (decode c.word) s else .next s

/-- What an outcome's next state goes on to. -/
def afterBus (f : State → State) : Host.Outcome State Fault Refusal → Host.Outcome State Fault Refusal
  | .next t => .next (f t)
  | .fault r => .fault r
  | .refused r => .refused r

/-- The cycle c, begun in the state s. -/
def runCycle (c : Cycle) (s : State) : Host.Outcome State Fault Refusal :=
  if c.rst then .next s.resetEdge
  else afterBus (engineEdge c.fire s.busy) (busPhase c s)

/-- A cycle that issues the transaction word w, with the engine's completion not falling at its edge. -/
def Cycle.ofWord (w : TWord) : Cycle where
  rst := false
  sel := true
  we := fieldW w
  addr := fieldA w
  wdata := fieldD w
  fire := false

/-- The host issues w in the very next cycle, ahead of the inputs already listed. -/
def State.issue (s : State) (w : TWord) : State := { s with inputs := Cycle.ofWord w :: s.inputs }

end Sys2Proof.Machine
end

