-- ==== Sys2Proof/Machine/Step.lean ====
section
/-! DEFINITION. The step: one clock cycle. -/

namespace Sys2Proof.Machine

/-- One step: the next clock cycle, on the pins the input list gives for it. -/
def step (s : State) : Host.Outcome State Fault Refusal := runCycle s.nextCycle s.beginCycle

/-- The state in which the host issues the transaction word w in the very next cycle (bits above `nbits` are 0). The block
fetches no instructions (R37): its operations come from the host, and this stands for the host's next one (log entry 7). -/
def State.withFetchWord (s : State) (nbits w : Nat) : State := s.issue (BitVec.ofNat 17 (w % 2 ^ nbits))

end Sys2Proof.Machine
end

