-- ==== Sys2Proof/Machine/PseudoOps.lean ====
section
/-! DEFINITION. The straight-line pseudo-operations of R90, each as the operations it expands to. WAIT and DRAIN are loops of
the host over reads of STATUS and PHR_DATA (R90), and are not steps of the block. -/

namespace Sys2Proof.Machine

/-- LOAD32 b0, …, b31: 32 pushes, in that order (R90). -/
def load32 (bs : Vector Byte 32) : List Instr := bs.toList.map .wrEntIn

/-- ENCODE: WR CTRL, 0x01 (R90). -/
def encodeCmd : List Instr := [.wrCtrlStart]

/-- CLEARALL: WR CTRL, 0x02 (R90). -/
def clearAll : List Instr := [.wrCtrlClear]

/-- REWIND: WR CTRL, 0x04 (R90). -/
def rewind : List Instr := [.wrCtrlPrw]

/-- GETIDX i: RD IDX_HI[i], then RD IDX_LO[i] (R90). -/
def getIdx (i : Fin 24) : List Instr := [.rdIdxHi i, .rdIdxLo i]

/-- The value GETIDX makes of its two bytes: (hi[2:0] << 8) | lo (R90, R55). -/
def idxOfBytes (hi lo : Byte) : Index := hi.extractLsb' 0 3 ++ lo

/-- SELWORD k: WR WSEL_HI, k >> 8, then WR WSEL_LO, k & 0xFF (R90). -/
def selWord (k : Index) : List Instr := [.wrWselHi (k.extractLsb' 8 3), .wrWselLo (lowByte k)]

/-- GETWORD: RD WLEN, then RD WCHR[0] … RD WCHR[n-1], where n is the length that RD WLEN returns (R90). -/
def getWord (n : Nat) : List Instr := .rdWlen :: ((List.finRange 16).take n).map .rdWchr

end Sys2Proof.Machine
end

