-- ==== Sys2Proof/Safety.lean ====
section
/-! DEFINITION. What a claim about a run of GB39-ENC says of a state or of a cycle: the invariants of R39, the end of an
invocation (R266), the cycles that leave a running encoding alone (R67, R229), sequences of operations, and the second
forms the spec gives of the same value (R8, R125). -/

namespace Sys2Proof.Machine

/-- The invariants of R39, and the range of ENT_CNT (R23, R100). They are no premise of a step (R39). -/
structure State.Inv (s : State) : Prop where
  /-- ENT_CNT is 0..32 (R23, R100). -/
  count : s.entCnt.toNat ≤ 32
  /-- R39, 1. -/
  done_excludes : s.done = true → s.entCnt = 32 ∧ s.busy = false ∧ s.errcode = 0
  /-- R39, 2. -/
  busy_excludes : s.busy = true → s.entCnt = 32 ∧ s.done = false ∧ s.errcode = 0
  /-- R39, 3, first part. -/
  ptr_done : s.ptr ≠ 0 → s.done = true
  /-- R39, 3, second part. -/
  ptr_le : s.ptr.toNat ≤ s.plen
  /-- R39, 4. -/
  unpushed : ∀ (j : Nat) (h : j < 32), s.entCnt.toNat ≤ j → s.mb[j] = 0
  /-- R39, 5. -/
  results : s.done = true → s.mb[32] = checksum hash s.mb ∧ s.idx = lanes s.mb
  /-- R39, 6. -/
  errcode_range : s.errcode = 0 ∨ s.errcode = lenShort ∨ s.errcode = lenLong

/-- The block is quiescent: BUSY = 0 and DONE or ERR is set, so the invocation has ended (R266). -/
abbrev State.Quiescent (s : State) : Prop := s.busy = false ∧ (s.done = true ∨ s.err = true)

/-- The invocation ended in success (R266). -/
abbrev State.Success (s : State) : Prop := s.Quiescent ∧ s.done = true ∧ s.errcode = 0

/-- The cycle issues the operation i. -/
abbrev Cycle.Issues (c : Cycle) (i : Instr) : Prop := c.rst = false ∧ c.sel = true ∧ decode c.word = i

/-- The cycle neither resets the block nor issues a CLEAR: the two things that cancel a running encoding (R127). -/
abbrev Cycle.Keeps (c : Cycle) : Prop := c.rst = false ∧ ¬ c.Issues .wrCtrlClear

/-- The operations and conditions that raise AccErr (the table of R227). -/
def raisesAccErr (s : State) : Instr → Bool
  | .wrEntIn _ => s.busy || s.errcode != 0
  | .wrCtrlStart => s.busy || s.errcode != 0
  | .rdCsum => !s.done
  | .rdIdxHi _ => !s.done
  | .rdIdxLo _ => !s.done
  | .rdPhrData => !s.done
  | .rdRsvd _ => true
  | .wrIllegal _ _ => true
  | .rdMb _ => false
  | .rdCtrl => false
  | .rdStatus => false
  | .rdErrcode => false
  | .rdEntCnt => false
  | .rdEntIn => false
  | .rdWselHi => false
  | .rdWselLo => false
  | .rdWlen => false
  | .rdWchr _ => false
  | .wrCtrlClear => false
  | .wrCtrlPrw => false
  | .wrCtrlNop => false
  | .wrWselHi _ => false
  | .wrWselLo _ => false

/-- The operations of the word ROM lookup port (42_wordrom.md). -/
def isLookup : Instr → Bool
  | .wrWselHi _ => true
  | .wrWselLo _ => true
  | .rdWselHi => true
  | .rdWselLo => true
  | .rdWlen => true
  | .rdWchr _ => true
  | .rdMb _ => false
  | .rdCsum => false
  | .rdCtrl => false
  | .rdStatus => false
  | .rdErrcode => false
  | .rdEntCnt => false
  | .rdEntIn => false
  | .rdPhrData => false
  | .rdIdxHi _ => false
  | .rdIdxLo _ => false
  | .rdRsvd _ => false
  | .wrCtrlClear => false
  | .wrCtrlStart => false
  | .wrCtrlPrw => false
  | .wrCtrlNop => false
  | .wrEntIn _ => false
  | .wrIllegal _ _ => false

/-- Execute operations one after the other, with no cycle of the engine between them; stop where one does not answer a next
state. -/
def execAll : List Instr → State → Host.Outcome State Fault Refusal
  | [], s => .next s
  | i :: is, s =>
    match exec i s with
    | .next t => execAll is t
    | .fault r => .fault r
    | .refused r => .refused r

/-- The bytes that operations return one after the other, and the state after them. -/
def readAll : List Instr → State → Option (List Byte × State)
  | [], s => some ([], s)
  | i :: is, s =>
    match exec i s with
    | .next t => (readAll is t).map fun r => (t.rdata :: r.1, r.2)
    | .fault _ => none
    | .refused _ => none

/-- The bytes that n reads of PHR_DATA return, and the state after them. -/
def readStream (n : Nat) (s : State) : Option (List Byte × State) := readAll (List.replicate n .rdPhrData) s

/-- The buffer with the bit at position p (R7) flipped. -/
def flipBit (mb : Vector Byte 33) (p : Nat) (h : p < 264) : Vector Byte 33 :=
  mb.set (p / 8) (mb[p / 8] ^^^ BitVec.ofNat 8 (2 ^ (7 - p % 8)))

/-- A byte string read as one big-endian integer (R8). -/
def bigEndian {n : Nat} (data : Vector Byte n) : Nat :=
  ((List.finRange n).map fun j => data[j.val].toNat * 2 ^ (8 * (n - 1 - j.val))).sum

/-- v[l+n-1 : l] << k as an 11-bit number: one term of the lane table (R125). -/
def slice (v : Byte) (l n k : Nat) : Index := (v.extractLsb' l n).setWidth 11 <<< k

/-- The lane table, row by row (R125). -/
def laneTable (m : Vector Byte 33) : List Index :=
  [ slice m[0] 0 8 3 ||| slice m[1] 5 3 0,
    slice m[1] 0 5 6 ||| slice m[2] 2 6 0,
    slice m[2] 0 2 9 ||| slice m[3] 0 8 1 ||| slice m[4] 7 1 0,
    slice m[4] 0 7 4 ||| slice m[5] 4 4 0,
    slice m[5] 0 4 7 ||| slice m[6] 1 7 0,
    slice m[6] 0 1 10 ||| slice m[7] 0 8 2 ||| slice m[8] 6 2 0,
    slice m[8] 0 6 5 ||| slice m[9] 3 5 0,
    slice m[9] 0 3 8 ||| slice m[10] 0 8 0 ] ++
  [ slice m[11] 0 8 3 ||| slice m[12] 5 3 0,
    slice m[12] 0 5 6 ||| slice m[13] 2 6 0,
    slice m[13] 0 2 9 ||| slice m[14] 0 8 1 ||| slice m[15] 7 1 0,
    slice m[15] 0 7 4 ||| slice m[16] 4 4 0,
    slice m[16] 0 4 7 ||| slice m[17] 1 7 0,
    slice m[17] 0 1 10 ||| slice m[18] 0 8 2 ||| slice m[19] 6 2 0,
    slice m[19] 0 6 5 ||| slice m[20] 3 5 0,
    slice m[20] 0 3 8 ||| slice m[21] 0 8 0 ] ++
  [ slice m[22] 0 8 3 ||| slice m[23] 5 3 0,
    slice m[23] 0 5 6 ||| slice m[24] 2 6 0,
    slice m[24] 0 2 9 ||| slice m[25] 0 8 1 ||| slice m[26] 7 1 0,
    slice m[26] 0 7 4 ||| slice m[27] 4 4 0,
    slice m[27] 0 4 7 ||| slice m[28] 1 7 0,
    slice m[28] 0 1 10 ||| slice m[29] 0 8 2 ||| slice m[30] 6 2 0,
    slice m[30] 0 6 5 ||| slice m[31] 3 5 0,
    slice m[31] 0 3 8 ||| slice m[32] 0 8 0 ]

end Sys2Proof.Machine
end

