-- ==== Sys2Proof/Certificates/Slice0/Obligations.lean ====
section
/-! DEFINITION. The statements for the provers. Each docstring names the rule of spec/ it formalises. A next state is written
as an update of the state before, so each of them also says what is left unchanged: every element, port and input the update
does not name. -/

open Sys2Proof Sys2Proof.Machine

/-! ### Encoding -/

/-- R82: decode takes the one row that the word is in; the rows are pairwise disjoint; the catch-all rows apply exactly
when no other row does. -/
def Obligations.DecodeTakesTheOneRowHit : Prop :=
  (opcodeMap.Pairwise fun r r' => ∀ w, ¬ (r.hits w = true ∧ r'.hits w = true)) ∧
    ∀ w : TWord,
      (∀ r ∈ opcodeMap, r.hits w = true → decode w = r.build w) ∧
        ((∀ r ∈ opcodeMap, r.hits w = false) → fieldW w = false → decode w = .rdRsvd (fieldA w)) ∧
          ((∀ r ∈ opcodeMap, r.hits w = false) → fieldW w = true → decode w = .wrIllegal (fieldA w) (fieldD w))

/-- R83, "Read by address": RD.RSVD covers the reserved addresses, WR.ILLEGAL every address but 0x40, 0x44, 0x46, 0x47.
-/
def Obligations.CatchAllRowsByAddress : Prop :=
  ∀ a d : Byte,
    (decode (tword false a d) = .rdRsvd a ↔
        (0x21 ≤ a ∧ a ≤ 0x3F) ∨ (0x49 ≤ a ∧ a ≤ 0x4F) ∨ (0x60 ≤ a ∧ a ≤ 0x7F) ∨ (0xB0 ≤ a ∧ a ≤ 0xFF)) ∧
      (decode (tword true a d) = .wrIllegal a d ↔ a ≠ 0x40 ∧ a ≠ 0x44 ∧ a ≠ 0x46 ∧ a ≠ 0x47)

/-- R81, R83: no operand bit is lost: decoding the word of a well-formed operation gives it back. -/
def Obligations.DecodeOfEncodeIsIdentity : Prop :=
  ∀ i : Instr, i.wf = true → decode (encode i) = i

/-- R80, R82: decode is total onto well-formed operations, a word's W says read or write, and no address bit is lost. -/
def Obligations.DecodeKeepsKindAndAddress : Prop :=
  ∀ w : TWord,
    (decode w).wf = true ∧ (decode w).isRead = !fieldW w ∧ fieldW (encode (decode w)) = fieldW w ∧
      fieldA (encode (decode w)) = fieldA w

/-- R84: a write to CTRL is exactly one of four commands, by priority. -/
def Obligations.CtrlCommandPriority : Prop :=
  ∀ d : Byte,
    decode (tword true 0x40 d) =
      if d.getLsbD 1 then .wrCtrlClear
      else if d.getLsbD 0 then .wrCtrlStart
      else if d.getLsbD 2 then .wrCtrlPrw
      else .wrCtrlNop

/-- R85, "Ignored bits": the D field of every read, and D[7:3] of CTRL and WSEL_HI writes. -/
def Obligations.IgnoredBitsDoNotChangeTheOperation : Prop :=
  (∀ a d d' : Byte, decode (tword false a d) = decode (tword false a d')) ∧
    ∀ a d d' : Byte, a = 0x40 ∨ a = 0x46 → d.extractLsb' 0 3 = d'.extractLsb' 0 3 →
      decode (tword true a d) = decode (tword true a d')

/-- Words written out in the spec (R80, R102, R154, R158, and the traces of 95_test_vectors.md) and what they stand for.
-/
def Obligations.WordsOfTheSpecDecode : Prop :=
  decode 0x1445A = .wrEntIn 0x5A ∧ decode 0x01F00 = .rdMb 31 ∧ decode 0x02000 = .rdCsum ∧ decode 0x0AE00 = .rdIdxHi 23 ∧
    decode 0x0AF00 = .rdIdxLo 23 ∧ decode 0x05F00 = .rdWchr 15 ∧ decode 0x14766 = .wrWselLo 0x66 ∧
      decode 0x146FF = .wrWselHi 7 ∧ decode 0x14005 = .wrCtrlStart ∧ decode 0x14007 = .wrCtrlClear ∧
        decode 0x1400C = .wrCtrlPrw ∧ decode 0x140F8 = .wrCtrlNop ∧ decode 0x02100 = .rdRsvd 0x21 ∧
          decode 0x0B000 = .rdRsvd 0xB0 ∧ decode 0x12000 = .wrIllegal 0x20 0x00 ∧ decode 0x04500 = .rdPhrData

/-! ### The step -/

/-- R51, R62, in the model's clock cycle (log entries 9 and 10): a step in which the host issues a transaction executes
the operation its word decodes to, on the state with the cycle's inputs taken and the read data 0x00, and then the
engine's edge; with no completion chosen for the edge it is exactly that execution. -/
def Obligations.StepRunsTheDecodedOperation : Prop :=
  ∀ (s : State) (c : Cycle) (cs : List Cycle) (i : Instr), s.inputs = c :: cs → c.Issues i →
    step s = afterBus (engineEdge c.fire s.busy) (exec i { s with inputs := cs, rdata := 0x00 }) ∧
      (c.fire = false → step s = exec i { s with inputs := cs, rdata := 0x00 })

/-- The model's choice for how the host's next transaction is placed (log entry 7): with a transaction word issued, the
very next step executes what the decoder reads from it. -/
def Obligations.IssuedWordRunsNext : Prop :=
  ∀ (s : State) (w : TWord),
    decodeTableWord 17 w.toNat = some (decode w) ∧
      step (s.withFetchWord 17 w.toNat) = exec (decode w) { s with rdata := 0x00 }

/-- R20, "0x00 when there is no read" (log entry 10 holds `bus_rdata` in the state): a cycle with no transaction and no
completion changes no element. -/
def Obligations.IdleCycleKeepsEveryElement : Prop :=
  ∀ s : State, s.nextCycle.rst = false → s.nextCycle.sel = false → (s.nextCycle.fire = true → s.busy = false) →
    step s = .next { s with inputs := s.inputs.tail, rdata := 0x00 }

/-- R250, R40: an edge with rst = 1 puts every element at its reset value, whatever the pins and the engine's choice
are, and the read data is 0x00. -/
def Obligations.ResetEdgeGivesResetValues : Prop :=
  ∀ (s : State) (c : Cycle) (cs : List Cycle), s.inputs = c :: cs → c.rst = true →
    ∃ t, step s = .next t ∧ (∀ (j : Nat) (h : j < 33), t.mb[j] = 0) ∧ t.entCnt = 0 ∧
      (∀ (i : Nat) (h : i < 24), t.idx[i] = 0) ∧ t.busy = false ∧ t.done = false ∧ t.errcode = 0 ∧ t.accerr = false ∧
        t.ptr = 0 ∧ t.wsel = 0 ∧ t.rdata = 0x00 ∧ t.inputs = cs ∧ t.status = 0x00

/-- R229, R62: in a shared cycle the transaction comes first. A CLEAR there means no completion; after any other
transaction the completion follows, and it computes what it would have computed without it. -/
def Obligations.TransactionComesBeforeCompletion : Prop :=
  ∀ (s : State) (i : Instr), s.busy = true → s.nextCycle.fire = true → s.nextCycle.Issues i →
    (i = .wrCtrlClear → step s = .next { State.reset with inputs := s.inputs.tail }) ∧
      (i ≠ .wrCtrlClear → ∃ u, exec i s.beginCycle = .next u ∧ step s = .next (encComplete u) ∧
        (encComplete u).mb = (encComplete s).mb ∧ (encComplete u).idx = (encComplete s).idx)

/-- R127: the completion, in a cycle of its own. The checksum is byte 0 of the hash of MB[0..31]; bit 10-k of IDX[i] is
the bit at position 11i+k of the buffer with that checksum (R7, R123). It is enabled only while BUSY = 1. The hash is
SHA-256 as the model takes it (PRESUMED, log entries 1 and 2). -/
def Obligations.CompletionStoresChecksumAndIndices : Prop :=
  ∀ s : State, s.nextCycle.rst = false → s.nextCycle.sel = false → s.nextCycle.fire = true →
    (s.busy = true → ∃ t, step s = .next t ∧
      t = { s with
        mb := s.mb.set 32 (hash (entropy s.mb))[0]
        idx := t.idx, busy := false, done := true, ptr := 0, rdata := 0x00, inputs := s.inputs.tail } ∧
      (∀ (i k : Nat) (hi : i < 24) (hk : k < 11),
        t.idx[i].getLsbD (10 - k) = t.mb[(11 * i + k) / 8].getLsbD (7 - (11 * i + k) % 8)) ∧
      t.pend = false) ∧
    (s.busy = false → step s = .next { s with rdata := 0x00, inputs := s.inputs.tail })

/-- The model's choice for weak fairness (R127, log entry 6): where no input is left, a busy engine completes. -/
def Obligations.BusyEngineCompletesWhenInputsEnd : Prop :=
  ∀ s : State, s.inputs = [] → s.busy = true →
    ∃ t, step s = .next t ∧ t.busy = false ∧ t.done = true ∧ t.inputs = []

/-- R220: no transaction and no event stops the block: every operation, and every clock cycle, gives a next state. -/
def Obligations.NothingStopsTheBlock : Prop :=
  (∀ (i : Instr) (s : State), ∃ t, exec i s = .next t ∧ t.inputs = s.inputs) ∧
    ∀ s : State, ∃ t, step s = .next t ∧ t.inputs = s.inputs.tail

/-! ### Invariants -/

/-- R39 (which the spec derives from its operation rules), and ENT_CNT ≤ 32 (R23): every clock cycle keeps the
invariants, from every state that has them. The fifth of them speaks of the hash, which is SHA-256 as the model takes it
(PRESUMED, log entries 1 and 2). -/
def Obligations.StepKeepsTheInvariants : Prop :=
  ∀ s t : State, s.Inv → step s = .next t → t.Inv

/-- R39, R40: the reset state has them (the hash: log entries 1 and 2). -/
def Obligations.ResetStateHasTheInvariants : Prop := State.reset.Inv

/-! ### Buffer load -/

/-- R103. The last clause is R101's, under the invariants. -/
def Obligations.RdMbReturnsTheBufferByte : Prop :=
  ∀ (j : Fin 32) (s : State),
    decode (0x00000#17 ||| (BitVec.ofNat 17 j.val <<< 8)) = .rdMb j ∧
      exec (.rdMb j) s = .next { s with rdata := s.mb[j.val] } ∧
        (s.Inv → s.entCnt.toNat ≤ j.val → exec (.rdMb j) s = .next { s with rdata := 0x00 })

/-- R104. -/
def Obligations.RdEntCntReturnsTheCount : Prop :=
  ∀ s : State, decode 0x04300 = .rdEntCnt ∧
    ∃ t, exec .rdEntCnt s = .next t ∧ t.rdata.toNat = s.entCnt.toNat ∧ t = { s with rdata := t.rdata }

/-- R105, R192: the write-only registers read 0x00 in every state, with no side effect. -/
def Obligations.WriteOnlyRegistersReadZero : Prop :=
  ∀ s : State, decode 0x04400 = .rdEntIn ∧ decode 0x04000 = .rdCtrl ∧
    exec .rdEntIn s = .next { s with rdata := 0x00 } ∧ exec .rdCtrl s = .next { s with rdata := 0x00 }

/-- R102, R228: a push is refused, accepted, or too long. -/
def Obligations.WrEntInPushesOrRaises : Prop :=
  ∀ (d : Byte) (s : State),
    decode (0x14400#17 ||| d.setWidth 17) = .wrEntIn d ∧
      (s.busy = true ∨ s.errcode ≠ 0 → exec (.wrEntIn d) s = .next { s with accerr := true }) ∧
        (s.busy = false → s.errcode = 0 → s.entCnt.toNat < 32 →
          ∃ t, exec (.wrEntIn d) s = .next t ∧ t = { s with mb := t.mb, entCnt := t.entCnt } ∧
            t.entCnt.toNat = s.entCnt.toNat + 1 ∧
              ∀ (j : Nat) (h : j < 33), t.mb[j] = if j = s.entCnt.toNat then d else s.mb[j]) ∧
          (s.busy = false → s.errcode = 0 → 32 ≤ s.entCnt.toNat →
            exec (.wrEntIn d) s = .next { s with errcode := 2, done := false, ptr := 0 })

/-- R54, R101: up to 32 pushes fill MB from MB[0] in push order and leave the rest of the buffer as it was; one more
raises LenLong and keeps the 32. -/
def Obligations.PushesFillTheBufferInOrder : Prop :=
  ∀ (bs : List Byte) (s : State), bs.length ≤ 32 → s.busy = false → s.errcode = 0 → s.entCnt = 0 →
    ∃ t, execAll (bs.map .wrEntIn) s = .next t ∧ t = { s with mb := t.mb, entCnt := t.entCnt } ∧
      t.entCnt.toNat = bs.length ∧
        (∀ (k : Nat) (h : k < 33), t.mb[k] = if hk : k < bs.length then bs[k] else s.mb[k]) ∧
          (bs.length = 32 → ∀ d : Byte, exec (.wrEntIn d) t = .next { t with errcode := 2, done := false, ptr := 0 })

/-! ### Encoding of the entropy -/

/-- R121, R228: a START is refused, too short, or accepted; with DONE = 1 it recomputes the same result (under the
invariants). -/
def Obligations.WrCtrlStartBeginsOrRaises : Prop :=
  (∀ d : Byte, d.getLsbD 1 = false → d.getLsbD 0 = true → decode (tword true 0x40 d) = .wrCtrlStart) ∧
    ∀ s : State,
      (s.busy = true ∨ s.errcode ≠ 0 → exec .wrCtrlStart s = .next { s with accerr := true }) ∧
        (s.busy = false → s.errcode = 0 → s.entCnt.toNat < 32 →
          exec .wrCtrlStart s = .next { s with errcode := 1, done := false, ptr := 0 }) ∧
          (s.busy = false → s.errcode = 0 → 32 ≤ s.entCnt.toNat →
            exec .wrCtrlStart s = .next { s with busy := true, done := false, ptr := 0 }) ∧
            (s.Inv → s.done = true →
              ∃ t, exec .wrCtrlStart s = .next t ∧ t.done = false ∧ encComplete t = { s with ptr := 0 })

/-- R128: the checksum, or 0x00 and ACCERR. -/
def Obligations.RdCsumIsGatedByDone : Prop :=
  ∀ s : State,
    decode 0x02000 = .rdCsum ∧ (s.done = true → exec .rdCsum s = .next { s with rdata := s.mb[32] }) ∧
      (s.done = false → exec .rdCsum s = .next { s with rdata := 0x00, accerr := true })

/-- R129, R130, R55, R90: the two halves of IDX[i], or 0x00 and ACCERR; GETIDX with DONE = 1 gives the index back. -/
def Obligations.RdIdxPairIsGatedByDone : Prop :=
  ∀ (i : Fin 24) (s : State),
    decode (0x08000#17 ||| (BitVec.ofNat 17 i.val <<< 9)) = .rdIdxHi i ∧
      decode (0x08100#17 ||| (BitVec.ofNat 17 i.val <<< 9)) = .rdIdxLo i ∧
        (s.done = true → ∃ hi lo, exec (.rdIdxHi i) s = .next { s with rdata := hi } ∧
          exec (.rdIdxLo i) s = .next { s with rdata := lo } ∧ hi.toNat = s.idx[i.val].toNat / 256 ∧
            lo.toNat = s.idx[i.val].toNat % 256 ∧ hi.extractLsb' 3 5 = 0 ∧
              readAll (getIdx i) s = some ([hi, lo], { s with rdata := lo }) ∧ idxOfBytes hi lo = s.idx[i.val]) ∧
          (s.done = false → exec (.rdIdxHi i) s = .next { s with rdata := 0x00, accerr := true } ∧
            exec (.rdIdxLo i) s = .next { s with rdata := 0x00, accerr := true })

/-- R8: the bit at position low becomes the most significant bit of an extract and the bit at high-1 the least; the
extract is the window of the buffer read as one big-endian integer. -/
def Obligations.ExtractIsBigEndianWindow : Prop :=
  ∀ (n : Nat) (data : Vector Byte n) (low high : Nat) (h : low < high ∧ high ≤ 8 * n),
    (∀ (p : Nat) (hp : low ≤ p ∧ p < high),
      (extract data low high h).testBit (high - 1 - p) = bufBit data p (by omega)) ∧
    extract data low high h = (bigEndian data >>> (8 * n - high)) % 2 ^ (high - low)

/-- R125 (which the spec derives from R123 and R7): the 24 lanes, written byte by byte. -/
def Obligations.LanesAreTheLaneTable : Prop :=
  ∀ mb : Vector Byte 33, (lanes mb).toList = laneTable mb

/-- R124 (which the spec derives from R123): each of the 264 buffer bits feeds exactly one lane: changing only the bit
at position p changes lane p/11 and no other. -/
def Obligations.EachBufferBitFeedsOneLane : Prop :=
  ∀ (mb : Vector Byte 33) (p : Nat) (hp : p < 264) (i : Fin 24),
    lane (flipBit mb p hp) i = lane mb i ↔ i.val ≠ p / 11

/-- R126 (which the spec derives from R122, R123 and R125): the checksum byte is the low 8 bits of the last index and
reaches no other lane. -/
def Obligations.ChecksumReachesOnlyTheLastLane : Prop :=
  ∀ (mb : Vector Byte 33) (c : Byte),
    (lane (mb.set 32 c) 23).toNat = mb[31].toNat % 8 * 256 + c.toNat ∧
      ∀ i : Fin 24, i ≠ 23 → lane (mb.set 32 c) i = lane mb i

/-- R131 (which the spec derives from R123 to R127), for every hash: the completion is a function of MB[0..31]; every
index is below 2048; flipping any one bit of the entropy changes the index of that bit's lane. -/
def Obligations.EncodingIsDeterministicAndSensitive : Prop :=
  ∀ H : Vector Byte 32 → Vector Byte 32,
    (∀ s t : State, (∀ (j : Nat) (h : j < 32), s.mb[j] = t.mb[j]) →
      (completeWith H s).mb[32] = (completeWith H t).mb[32] ∧ (completeWith H s).idx = (completeWith H t).idx) ∧
    (∀ (s : State) (i : Nat) (h : i < 24), (completeWith H s).idx[i].toNat ≤ 2047) ∧
    ∀ (s : State) (p : Nat) (hp : p < 256),
      (completeWith H { s with mb := flipBit s.mb p (by omega) }).idx[p / 11] ≠ (completeWith H s).idx[p / 11]

/-- R62, R67, R121, R127: from any state that accepts a START, START, then any cycles that neither reset nor CLEAR while
the engine is not yet due, then the edge at which it completes: the run ends in success with the checksum and indices of
the entropy that START saw, whatever the host did in between. The hash is SHA-256 as the model takes it (PRESUMED, log
entries 1 and 2). -/
def Obligations.EveryInterleavingEncodesTheEntropyOfStart : Prop :=
  ∀ (s : State) (c0 cf : Cycle) (cs rest : List Cycle),
    s.busy = false → s.errcode = 0 → 32 ≤ s.entCnt.toNat → s.inputs = c0 :: (cs ++ cf :: rest) →
      c0.Issues .wrCtrlStart → (∀ c ∈ cs, c.Keeps ∧ c.fire = false) → cf.Keeps → cf.fire = true →
        ∃ t, Host.Core.run core (cs.length + 2) s = .next t ∧ t.Success ∧ t.inputs = rest ∧
          t.mb = s.mb.set 32 (hash (entropy s.mb))[0] ∧
            t.idx = lanes (s.mb.set 32 (hash (entropy s.mb))[0])

/-- R67 (which the spec derives from R102, R127 and R190): while BUSY = 1, no cycle without a reset or a CLEAR changes
MB[0..31] or ENT_CNT. -/
def Obligations.EntropyIsFixedWhileBusy : Prop :=
  ∀ s t : State, s.busy = true → s.nextCycle.Keeps → step s = .next t →
    t.entCnt = s.entCnt ∧ ∀ (j : Nat) (h : j < 32), t.mb[j] = s.mb[j]

/-- R37, R22, R24: MB[0..31] is written only through ENT_IN; MB[32] and IDX only by the engine (CLEAR and reset apart).
-/
def Obligations.RegisterFilesHaveOneWriter : Prop :=
  ∀ s t : State, s.nextCycle.Keeps → step s = .next t →
    ((∀ d, ¬ s.nextCycle.Issues (.wrEntIn d)) → ∀ (j : Nat) (h : j < 32), t.mb[j] = s.mb[j]) ∧
      (¬ (s.busy = true ∧ s.nextCycle.fire = true) → t.mb[32] = s.mb[32] ∧ t.idx = s.idx)

/-- I12 of 93_implementation_defined.md, R128 to R130, R172: while DONE = 0 the bus cannot observe MB[32] and IDX: two
blocks that differ in nothing else drive the same read data after any number of cycles. -/
def Obligations.UnfinishedResultsAreUnobservable : Prop :=
  ∀ (s : State) (c : Byte) (v : Vector Index 24) (n : Nat) (s' t' : State), s.done = false →
    Host.Core.run core n s = .next s' → Host.Core.run core n { s with mb := s.mb.set 32 c, idx := v } = .next t' →
      t'.rdata = s'.rdata

/-- R63 (which the spec derives from R62, R127 and R39): once DONE = 1 the results stay, until a START, a CLEAR, a push
or a reset. -/
def Obligations.ResultsStayUntilStartPushOrClear : Prop :=
  ∀ s t : State, s.Inv → s.done = true → s.nextCycle.Keeps → ¬ s.nextCycle.Issues .wrCtrlStart →
    (∀ d, ¬ s.nextCycle.Issues (.wrEntIn d)) → step s = .next t →
      t.done = true ∧ t.mb = s.mb ∧ t.idx = s.idx

/-! ### Word ROM -/

/-- R150: the open ROM holds exactly what the constraint allows: every entry is an allowed word, and every allowed word
is the value of some length and codes. -/
def Obligations.RomEntriesAreExactlyTheAllowedWords : Prop :=
  (∀ k : Index, 1 ≤ (rom k).length ∧ (rom k).length ≤ Config.wmax ∧ ∀ b ∈ rom k, b ≠ 0x00 ∧ b ≠ 0x20 ∧ b ≠ 0x0A) ∧
    ∀ w : List Byte, wordOk w = true ↔ ∃ last chars, wordOf last chars = w

/-- R150: building a ROM: the lines are the asset split at 0x0A and nothing else, the entries are the first 2048 of
them, and it is refused exactly when there are fewer, or one of those breaks the constraint. -/
def Obligations.RomIsBuiltFromTheFirstLines : Prop :=
  ∀ asset : List Byte,
    List.intercalate [0x0A] (splitLines asset) = asset ∧ (∀ l ∈ splitLines asset, (0x0A : Byte) ∉ l) ∧
      ((splitLines asset).length < 2048 → buildRom asset = .error .tooFewLines) ∧
        (∀ entries, buildRom asset = .ok entries ↔
          2048 ≤ (splitLines asset).length ∧ entries = (splitLines asset).take 2048 ∧
            ∀ w ∈ entries, 1 ≤ w.length ∧ w.length ≤ Config.wmax ∧ ∀ b ∈ w, b ≠ 0x00 ∧ b ≠ 0x20 ∧ b ≠ 0x0A)

/-- R153, R154: each half of WSEL is set, the other kept. -/
def Obligations.WrWselSetsOneHalf : Prop :=
  ∀ s : State,
    (∀ d : Byte, ∃ t, exec (decode (0x14600#17 ||| d.setWidth 17)) s = .next t ∧ t = { s with wsel := t.wsel } ∧
      t.wsel.toNat = d.toNat % 8 * 256 + s.wsel.toNat % 256) ∧
    (∀ d : Byte, ∃ t, exec (decode (0x14700#17 ||| d.setWidth 17)) s = .next t ∧ t = { s with wsel := t.wsel } ∧
      t.wsel.toNat = s.wsel.toNat / 256 * 256 + d.toNat) ∧
    (∀ d : BitVec 3, ∃ t, exec (.wrWselHi d) s = .next t ∧ t = { s with wsel := t.wsel } ∧
      t.wsel.toNat = d.toNat * 256 + s.wsel.toNat % 256) ∧
    ∀ d : Byte, ∃ t, exec (.wrWselLo d) s = .next t ∧ t = { s with wsel := t.wsel } ∧
      t.wsel.toNat = s.wsel.toNat / 256 * 256 + d.toNat

/-- R155, R156: the two halves of WSEL read back. -/
def Obligations.RdWselReturnsOneHalf : Prop :=
  ∀ s : State, decode 0x04600 = .rdWselHi ∧ decode 0x04700 = .rdWselLo ∧
    (∃ t, exec .rdWselHi s = .next t ∧ t = { s with rdata := t.rdata } ∧ t.rdata.toNat = s.wsel.toNat / 256) ∧
      ∃ t, exec .rdWselLo s = .next t ∧ t = { s with rdata := t.rdata } ∧ t.rdata.toNat = s.wsel.toNat % 256

/-- R157: the length of the selected word, 1 to WMAX, in every state. -/
def Obligations.RdWlenReturnsTheWordLength : Prop :=
  ∀ s : State, decode 0x04800 = .rdWlen ∧
    ∃ t, exec .rdWlen s = .next t ∧ t = { s with rdata := t.rdata } ∧ t.rdata.toNat = (rom s.wsel).length ∧
      1 ≤ t.rdata.toNat ∧ t.rdata.toNat ≤ Config.wmax

/-- R158: byte j of the selected word, or 0x00 past its end; the first 0x00 read marks the end. -/
def Obligations.RdWchrReturnsTheWordByte : Prop :=
  ∀ (j : Fin 16) (s : State),
    decode (0x05000#17 ||| (BitVec.ofNat 17 j.val <<< 8)) = .rdWchr j ∧
      ∃ b, exec (.rdWchr j) s = .next { s with rdata := b } ∧
        (∀ h : j.val < (rom s.wsel).length, b = (rom s.wsel)[j.val]) ∧
          (b = 0x00 ↔ (rom s.wsel).length ≤ j.val) ∧ (Config.wmax ≤ j.val → b = 0x00)

/-- R159: the lookup port does not depend on the encoder, never sets ACCERR, and changes no encoder state: what it
answers is fixed by WSEL, and it changes WSEL and the read data only. -/
def Obligations.LookupPortIsIndependentOfTheEncoder : Prop :=
  ∀ (i : Instr) (s s' : State), isLookup i = true → s.wsel = s'.wsel →
    ∃ t t', exec i s = .next t ∧ exec i s' = .next t' ∧ t.wsel = t'.wsel ∧ (i.isRead = true → t.rdata = t'.rdata) ∧
      t = { s with wsel := t.wsel, rdata := t.rdata }

/-! ### Phrase stream -/

/-- R170: the phrase: without its last byte, split at 0x20, it is ROM(IDX[0]) to ROM(IDX[23]) in index order, and its last
byte is the newline; its length, the bounds of it, its 23 separators, its one newline and no 0x00 (R172). -/
def Obligations.PhraseIsTwentyFourWordsAndANewline : Prop :=
  ∀ s : State,
    s.phrase.dropLast.splitOn 0x20 = s.idx.toList.map rom ∧
      s.plen = (s.idx.toList.map fun k => (rom k).length).sum + 24 ∧ 48 ≤ s.plen ∧ s.plen ≤ 24 * Config.wmax + 24 ∧
        s.phrase.count 0x20 = 23 ∧ s.phrase.count 0x0A = 1 ∧ s.phrase.getLast? = some 0x0A ∧ (0x00 : Byte) ∉ s.phrase

/-- R172: the three cases of a PHR_DATA read. -/
def Obligations.RdPhrDataReturnsTheNextByte : Prop :=
  ∀ s : State,
    decode 0x04500 = .rdPhrData ∧
      (s.done = false → exec .rdPhrData s = .next { s with rdata := 0x00, accerr := true }) ∧
        (s.done = true → ∀ h : s.ptr.toNat < s.phrase.length,
          ∃ t, exec .rdPhrData s = .next t ∧ t = { s with rdata := s.phrase[s.ptr.toNat], ptr := t.ptr } ∧
            t.ptr.toNat = s.ptr.toNat + 1 ∧ t.rdata ≠ 0x00 ∧ (t.pend = true ↔ t.rdata = 0x0A)) ∧
          (s.done = true → s.plen ≤ s.ptr.toNat → exec .rdPhrData s = .next { s with rdata := 0x00 })

/-- R173: the rewind. -/
def Obligations.WrCtrlPrwRewinds : Prop :=
  (∀ d : Byte, d.extractLsb' 0 3 = 4 → decode (tword true 0x40 d) = .wrCtrlPrw) ∧
    ∀ s : State, ∃ t, exec .wrCtrlPrw s = .next t ∧ t = { s with ptr := 0 } ∧ t.pend = false ∧
      (s.Inv → s.done = false → t = s)

/-- R174 (which the spec derives from R170), R173, R90: after a rewind, PLEN reads of the stream return the phrase byte for
byte; PEND is then 1, and one more read returns 0x00 with no side effect. -/
def Obligations.StreamReadsBackThePhrase : Prop :=
  ∀ s : State, s.done = true →
    execAll rewind s = .next { s with ptr := 0 } ∧
      ∃ t, readStream s.plen { s with ptr := 0 } = some (s.phrase, t) ∧ t = { s with ptr := t.ptr, rdata := 0x0A } ∧
        t.ptr.toNat = s.plen ∧ t.pend = true ∧ exec .rdPhrData t = .next { t with rdata := 0x00 }

/-! ### Pseudo-operations -/

/-- R90, R254: CLEARALL, LOAD32 and ENCODE, from any state: the bytes are the entropy, in order, and an encoding runs. -/
def Obligations.Load32ThenEncodeStarts : Prop :=
  ∀ (bs : Vector Byte 32) (s : State),
    execAll (clearAll ++ load32 bs ++ encodeCmd) s =
      .next { State.reset with mb := bs.push 0x00, entCnt := 32, busy := true, rdata := s.rdata, inputs := s.inputs }

/-- R90, R153 to R158: SELWORD k and GETWORD read ROM entry k, its length first, whatever the encoder does. -/
def Obligations.SelectedWordReadsBack : Prop :=
  ∀ (k : Index) (s : State),
    execAll (selWord k) s = .next { s with wsel := k } ∧
      ∃ t, readAll (getWord (rom k).length) { s with wsel := k } = some (BitVec.ofNat 8 (rom k).length :: rom k, t) ∧
        t = { s with wsel := k, rdata := t.rdata }

/-! ### Control, status and illegal accesses -/

/-- R193, R32: the STATUS byte and its fields. The last clauses are R193's corner cases: under the invariants bits 2:0 are
one of idle, busy, done and error, and PEND only comes with done; and in every cycle, the one in which the engine completes
among them, the read shows the state before. -/
def Obligations.RdStatusReturnsTheFlags : Prop :=
  ∀ s : State, decode 0x04100 = .rdStatus ∧
    ∃ t, exec .rdStatus s = .next t ∧ t = { s with rdata := t.rdata } ∧ t.rdata.getLsbD 0 = s.busy ∧
      t.rdata.getLsbD 1 = s.done ∧ (t.rdata.getLsbD 2 = true ↔ s.errcode ≠ 0) ∧ t.rdata.getLsbD 3 = s.accerr ∧
        (t.rdata.getLsbD 4 = true ↔ s.done = true ∧ s.ptr.toNat = s.plen) ∧ t.rdata.toNat < 32 ∧
          (s.Inv → t.rdata.toNat % 8 ∈ [0, 1, 2, 4] ∧ (t.rdata.getLsbD 4 = true → t.rdata.toNat % 8 = 2)) ∧
            ∀ u : State, s.nextCycle.Issues .rdStatus → step s = .next u → u.rdata = t.rdata

/-- R194, R34: the error code, one of 0, 1 and 2 under the invariants. -/
def Obligations.RdErrcodeReturnsTheCode : Prop :=
  ∀ s : State, decode 0x04200 = .rdErrcode ∧
    ∃ t, exec .rdErrcode s = .next t ∧ t = { s with rdata := t.rdata } ∧ t.rdata.toNat = s.errcode.toNat ∧
      (s.Inv → t.rdata = 0x00 ∨ t.rdata = 0x01 ∨ t.rdata = 0x02)

/-- R190, R40, R251: CLEAR gives every element its reset value, in every state; what was before leaves no trace, and in its
cycle no completion follows. -/
def Obligations.WrCtrlClearGivesResetValues : Prop :=
  (∀ d : Byte, d.getLsbD 1 = true → decode (tword true 0x40 d) = .wrCtrlClear) ∧
    ∀ s : State, exec .wrCtrlClear s = .next { State.reset with rdata := s.rdata, inputs := s.inputs } ∧
      (∀ t : State, exec .wrCtrlClear s = .next t →
        (∀ (j : Nat) (h : j < 33), t.mb[j] = 0) ∧ (∀ (i : Nat) (h : i < 24), t.idx[i] = 0) ∧ t.status = 0x00 ∧
          t.entCnt = 0 ∧ t.errcode = 0 ∧ t.ptr = 0 ∧ t.wsel = 0) ∧
      (s.nextCycle.Issues .wrCtrlClear → step s = .next { State.reset with inputs := s.inputs.tail })

/-- R191: a CTRL write that selects no command changes nothing. -/
def Obligations.WrCtrlNopChangesNothing : Prop :=
  (∀ d : Byte, d.extractLsb' 0 3 = 0 → decode (tword true 0x40 d) = .wrCtrlNop) ∧
    ∀ s : State, exec .wrCtrlNop s = .next s

/-- R195, R196: a read of a reserved address returns 0x00 and sets ACCERR, a write to a reserved or read-only address
sets ACCERR; nothing else changes. -/
def Obligations.IllegalAccessOnlySetsAccErr : Prop :=
  (∀ (a d : Byte) (s : State), reservedAddr a = true →
    exec (decode (tword false a d)) s = .next { s with rdata := 0x00, accerr := true }) ∧
  (∀ (a d : Byte) (s : State), a ≠ 0x40 → a ≠ 0x44 → a ≠ 0x46 → a ≠ 0x47 →
    exec (decode (tword true a d)) s = .next { s with accerr := true }) ∧
  (∀ (a : Byte) (s : State), exec (.rdRsvd a) s = .next { s with rdata := 0x00, accerr := true }) ∧
  ∀ (a d : Byte) (s : State), exec (.wrIllegal a d) s = .next { s with accerr := true }

/-! ### Whole-machine rules -/

/-- R227, R226: AccErr is raised by exactly the operations and conditions of the table, it is sticky, and only CLEAR
takes it away. -/
def Obligations.AccErrIsRaisedExactlyAsListed : Prop :=
  ∀ (i : Instr) (s t : State), exec i s = .next t →
    (i = .wrCtrlClear → t.accerr = false) ∧ (i ≠ .wrCtrlClear → t.accerr = (s.accerr || raisesAccErr s i))

/-- R228, R221, R222: an operation other than CLEAR writes ERRCODE only to raise LenShort or LenLong from the error-free
idle block, under the cause the table gives; it then clears DONE and PTR and leaves the rest, ACCERR included, as it
was. -/
def Obligations.ErrorEventsComeOnlyFromTheirCauses : Prop :=
  ∀ (i : Instr) (s t : State), exec i s = .next t → i ≠ .wrCtrlClear → t.errcode ≠ s.errcode →
    s.busy = false ∧ s.errcode = 0 ∧ t = { s with errcode := t.errcode, done := false, ptr := 0 } ∧
      ((i = .wrCtrlStart ∧ s.entCnt.toNat < 32 ∧ t.errcode = 1) ∨
        ((∃ d, i = .wrEntIn d) ∧ 32 ≤ s.entCnt.toNat ∧ t.errcode = 2))

/-- R231, R27: the error state is left only by CLEAR or reset: any other cycle keeps the code, the buffer, the count and
the results, and neither starts nor finishes an encoding. -/
def Obligations.ErrorStateIsLeftOnlyByClearOrReset : Prop :=
  ∀ s t : State, s.Inv → s.errcode ≠ 0 → s.nextCycle.Keeps → step s = .next t →
    t.errcode = s.errcode ∧ t.mb = s.mb ∧ t.entCnt = s.entCnt ∧ t.idx = s.idx ∧ t.busy = false ∧ t.done = false

/-- R28, R231: ACCERR is cleared only by CLEAR or reset. -/
def Obligations.AccErrIsClearedOnlyByClearOrReset : Prop :=
  ∀ s t : State, s.accerr = true → s.nextCycle.Keeps → step s = .next t → t.accerr = true

/-- R58: every read is idempotent but a PHR_DATA read that advances PTR: made again, it returns the same byte and
changes nothing more. -/
def Obligations.ReadsAreIdempotentButThePhraseStream : Prop :=
  ∀ (i : Instr) (s t : State), i.isRead = true → exec i s = .next t →
    i ≠ .rdPhrData ∨ s.done = false ∨ s.plen ≤ s.ptr.toNat → exec i t = .next t

/-- R53, R58: what a read leaves unchanged: everything but the read data, ACCERR, and PTR at PHR_DATA. The last clause, that
a write leaves the read data, is no rule's: it rests on how the model holds the port bus_rdata of R20 in the state (DEDUCED,
log entry 10). -/
def Obligations.ReadsLeaveTheElementsAlone : Prop :=
  ∀ (i : Instr) (s t : State), exec i s = .next t →
    (i.isRead = true → t = { s with rdata := t.rdata, accerr := t.accerr, ptr := t.ptr } ∧
      (i ≠ .rdPhrData → t.ptr = s.ptr)) ∧
    (i.isRead = false → t.rdata = s.rdata)

/-- R100: ENT_CNT keeps its range 0..32; a cycle leaves it as it was, adds one for an accepted push, or sets it to 0 for
CLEAR or reset. -/
def Obligations.EntCntCountsAcceptedPushes : Prop :=
  ∀ s t : State, step s = .next t →
    (s.entCnt.toNat ≤ 32 → t.entCnt.toNat ≤ 32) ∧
      ((t.entCnt = s.entCnt ∧ s.nextCycle.Keeps) ∨
        ((∃ d, s.nextCycle.Issues (.wrEntIn d)) ∧ s.busy = false ∧ s.errcode = 0 ∧ s.entCnt.toNat < 32 ∧
          t.entCnt.toNat = s.entCnt.toNat + 1) ∨
        (t.entCnt = 0 ∧ ¬ s.nextCycle.Keeps))
end

