-- ==== Sys2Proof/Laws/Decode.lean ====
section
/-! SUPPORT. Transaction words by their three fields, and the decoder's map read on them: a row's mask and match split into
the parts for W, A and D. -/

namespace Sys2Proof

/-- Bit i of a word, by the field it lies in (R80). -/
theorem getLsbD_tword (we : Bool) (a d : Byte) (i : Nat) :
    (tword we a d).getLsbD i =
      if i < 8 then d.getLsbD i else if i < 16 then a.getLsbD (i - 8) else (decide (i = 16) && we) := by
  have h1 := BitVec.getLsbD_append (x := BitVec.ofBool we ++ a) (y := d) (i := i)
  have h2 := BitVec.getLsbD_append (x := BitVec.ofBool we) (y := a) (i := i - 8)
  have h3 : (tword we a d).getLsbD i = (BitVec.ofBool we ++ a ++ d).getLsbD i := rfl
  rw [h3, h1, h2, BitVec.getLsbD_ofBool]
  by_cases c1 : i < 8
  · simp [c1]
  · by_cases c2 : i < 16
    · simp [c1, c2, show i - 8 < 8 by omega]
    · simp [c1, c2, show ¬ i - 8 < 8 by omega]
      congr 1
      simp
      omega

@[simp] theorem fieldW_tword (we : Bool) (a d : Byte) : fieldW (tword we a d) = we := by
  rw [fieldW, getLsbD_tword]
  simp

@[simp] theorem fieldA_tword (we : Bool) (a d : Byte) : fieldA (tword we a d) = a := by
  apply BitVec.eq_of_getLsbD_eq
  intro i hi
  simp [fieldA, getLsbD_tword, hi, show 8 + i < 16 by omega]

@[simp] theorem fieldD_tword (we : Bool) (a d : Byte) : fieldD (tword we a d) = d := by
  apply BitVec.eq_of_getLsbD_eq
  intro i hi
  simp [fieldD, getLsbD_tword, hi]

/-- Every word is its three fields (R80). -/
theorem tword_fields (w : TWord) : tword (fieldW w) (fieldA w) (fieldD w) = w := by
  apply BitVec.eq_of_getLsbD_eq
  intro i hi
  rw [getLsbD_tword]
  simp only [fieldW, fieldA, fieldD, BitVec.getLsbD_extractLsb']
  by_cases h1 : i < 8
  · simp [h1]
  · by_cases h2 : i < 16
    · simp [h1, h2, show i - 8 < 8 by omega, show 8 + (i - 8) = i by omega]
    · have h3 : i = 16 := by omega
      subst h3
      simp

/-- Two words are equal if and only if their fields are. -/
theorem tword_inj {we we' : Bool} {a a' d d' : Byte} : tword we a d = tword we' a' d' ↔ we = we' ∧ a = a' ∧ d = d' := by
  constructor
  · intro h
    exact ⟨by simpa using congrArg fieldW h, by simpa using congrArg fieldA h, by simpa using congrArg fieldD h⟩
  · rintro ⟨rfl, rfl, rfl⟩
    rfl

/-- Masking a word masks its fields. -/
theorem tword_and (we we' : Bool) (a a' d d' : Byte) :
    tword we a d &&& tword we' a' d' = tword (we && we') (a &&& a') (d &&& d') := by
  apply BitVec.eq_of_getLsbD_eq
  intro i _
  simp only [BitVec.getLsbD_and, getLsbD_tword]
  split
  · rfl
  · split
    · rfl
    · cases decide (i = 16) <;> simp

/-- A row's mask and match, met field by field. -/
theorem Row.hits_tword (r : Row) (we : Bool) (a d : Byte) :
    r.hits (tword we a d) =
      ((we && fieldW r.mask) == fieldW r.pattern && (a &&& fieldA r.mask) == fieldA r.pattern &&
        (d &&& fieldD r.mask) == fieldD r.pattern && r.constraint (tword we a d)) := by
  have h : (tword we a d &&& r.mask == r.pattern) =
      ((we && fieldW r.mask) == fieldW r.pattern && (a &&& fieldA r.mask) == fieldA r.pattern &&
        (d &&& fieldD r.mask) == fieldD r.pattern) := by
    conv_lhs => rw [← tword_fields r.mask, ← tword_fields r.pattern, tword_and]
    rw [Bool.eq_iff_iff]
    simp [tword_inj, and_assoc]
  simp only [Row.hits, h]

end Sys2Proof
end

