-- ==== Sys2Proof/Laws/State.lean ====
section
/-! SUPPORT. What each operation on the state leaves in each field, so that no proof unfolds a record update. -/

namespace Sys2Proof.Machine

@[simp] theorem State.reset_mb : State.reset.mb = Vector.replicate 33 0 := rfl
@[simp] theorem State.reset_entCnt : State.reset.entCnt = 0 := rfl
@[simp] theorem State.reset_idx : State.reset.idx = Vector.replicate 24 0 := rfl
@[simp] theorem State.reset_busy : State.reset.busy = false := rfl
@[simp] theorem State.reset_done : State.reset.done = false := rfl
@[simp] theorem State.reset_errcode : State.reset.errcode = 0 := rfl
@[simp] theorem State.reset_accerr : State.reset.accerr = false := rfl
@[simp] theorem State.reset_ptr : State.reset.ptr = 0 := rfl
@[simp] theorem State.reset_wsel : State.reset.wsel = 0 := rfl
@[simp] theorem State.reset_rdata : State.reset.rdata = 0 := rfl
@[simp] theorem State.reset_inputs : State.reset.inputs = [] := rfl

@[simp] theorem State.drive_mb (s : State) (b : Byte) : (s.drive b).mb = s.mb := rfl
@[simp] theorem State.drive_entCnt (s : State) (b : Byte) : (s.drive b).entCnt = s.entCnt := rfl
@[simp] theorem State.drive_idx (s : State) (b : Byte) : (s.drive b).idx = s.idx := rfl
@[simp] theorem State.drive_busy (s : State) (b : Byte) : (s.drive b).busy = s.busy := rfl
@[simp] theorem State.drive_done (s : State) (b : Byte) : (s.drive b).done = s.done := rfl
@[simp] theorem State.drive_errcode (s : State) (b : Byte) : (s.drive b).errcode = s.errcode := rfl
@[simp] theorem State.drive_accerr (s : State) (b : Byte) : (s.drive b).accerr = s.accerr := rfl
@[simp] theorem State.drive_ptr (s : State) (b : Byte) : (s.drive b).ptr = s.ptr := rfl
@[simp] theorem State.drive_wsel (s : State) (b : Byte) : (s.drive b).wsel = s.wsel := rfl
@[simp] theorem State.drive_rdata (s : State) (b : Byte) : (s.drive b).rdata = b := rfl
@[simp] theorem State.drive_inputs (s : State) (b : Byte) : (s.drive b).inputs = s.inputs := rfl

@[simp] theorem State.flagAccErr_mb (s : State) : s.flagAccErr.mb = s.mb := rfl
@[simp] theorem State.flagAccErr_entCnt (s : State) : s.flagAccErr.entCnt = s.entCnt := rfl
@[simp] theorem State.flagAccErr_idx (s : State) : s.flagAccErr.idx = s.idx := rfl
@[simp] theorem State.flagAccErr_busy (s : State) : s.flagAccErr.busy = s.busy := rfl
@[simp] theorem State.flagAccErr_done (s : State) : s.flagAccErr.done = s.done := rfl
@[simp] theorem State.flagAccErr_errcode (s : State) : s.flagAccErr.errcode = s.errcode := rfl
@[simp] theorem State.flagAccErr_accerr (s : State) : s.flagAccErr.accerr = true := rfl
@[simp] theorem State.flagAccErr_ptr (s : State) : s.flagAccErr.ptr = s.ptr := rfl
@[simp] theorem State.flagAccErr_wsel (s : State) : s.flagAccErr.wsel = s.wsel := rfl
@[simp] theorem State.flagAccErr_rdata (s : State) : s.flagAccErr.rdata = s.rdata := rfl
@[simp] theorem State.flagAccErr_inputs (s : State) : s.flagAccErr.inputs = s.inputs := rfl

@[simp] theorem State.raiseLen_mb (s : State) (c : BitVec 2) : (s.raiseLen c).mb = s.mb := rfl
@[simp] theorem State.raiseLen_entCnt (s : State) (c : BitVec 2) : (s.raiseLen c).entCnt = s.entCnt := rfl
@[simp] theorem State.raiseLen_idx (s : State) (c : BitVec 2) : (s.raiseLen c).idx = s.idx := rfl
@[simp] theorem State.raiseLen_busy (s : State) (c : BitVec 2) : (s.raiseLen c).busy = s.busy := rfl
@[simp] theorem State.raiseLen_done (s : State) (c : BitVec 2) : (s.raiseLen c).done = false := rfl
@[simp] theorem State.raiseLen_errcode (s : State) (c : BitVec 2) : (s.raiseLen c).errcode = c := rfl
@[simp] theorem State.raiseLen_accerr (s : State) (c : BitVec 2) : (s.raiseLen c).accerr = s.accerr := rfl
@[simp] theorem State.raiseLen_ptr (s : State) (c : BitVec 2) : (s.raiseLen c).ptr = 0 := rfl
@[simp] theorem State.raiseLen_wsel (s : State) (c : BitVec 2) : (s.raiseLen c).wsel = s.wsel := rfl
@[simp] theorem State.raiseLen_rdata (s : State) (c : BitVec 2) : (s.raiseLen c).rdata = s.rdata := rfl
@[simp] theorem State.raiseLen_inputs (s : State) (c : BitVec 2) : (s.raiseLen c).inputs = s.inputs := rfl

@[simp] theorem State.pushByte_mb (s : State) (d : Byte) : (s.pushByte d).mb = s.mb.setIfInBounds s.entCnt.toNat d := rfl
@[simp] theorem State.pushByte_entCnt (s : State) (d : Byte) : (s.pushByte d).entCnt = s.entCnt + 1 := rfl
@[simp] theorem State.pushByte_idx (s : State) (d : Byte) : (s.pushByte d).idx = s.idx := rfl
@[simp] theorem State.pushByte_busy (s : State) (d : Byte) : (s.pushByte d).busy = s.busy := rfl
@[simp] theorem State.pushByte_done (s : State) (d : Byte) : (s.pushByte d).done = s.done := rfl
@[simp] theorem State.pushByte_errcode (s : State) (d : Byte) : (s.pushByte d).errcode = s.errcode := rfl
@[simp] theorem State.pushByte_accerr (s : State) (d : Byte) : (s.pushByte d).accerr = s.accerr := rfl
@[simp] theorem State.pushByte_ptr (s : State) (d : Byte) : (s.pushByte d).ptr = s.ptr := rfl
@[simp] theorem State.pushByte_wsel (s : State) (d : Byte) : (s.pushByte d).wsel = s.wsel := rfl
@[simp] theorem State.pushByte_rdata (s : State) (d : Byte) : (s.pushByte d).rdata = s.rdata := rfl
@[simp] theorem State.pushByte_inputs (s : State) (d : Byte) : (s.pushByte d).inputs = s.inputs := rfl

@[simp] theorem State.beginEncode_mb (s : State) : s.beginEncode.mb = s.mb := rfl
@[simp] theorem State.beginEncode_entCnt (s : State) : s.beginEncode.entCnt = s.entCnt := rfl
@[simp] theorem State.beginEncode_idx (s : State) : s.beginEncode.idx = s.idx := rfl
@[simp] theorem State.beginEncode_busy (s : State) : s.beginEncode.busy = true := rfl
@[simp] theorem State.beginEncode_done (s : State) : s.beginEncode.done = false := rfl
@[simp] theorem State.beginEncode_errcode (s : State) : s.beginEncode.errcode = s.errcode := rfl
@[simp] theorem State.beginEncode_accerr (s : State) : s.beginEncode.accerr = s.accerr := rfl
@[simp] theorem State.beginEncode_ptr (s : State) : s.beginEncode.ptr = 0 := rfl
@[simp] theorem State.beginEncode_wsel (s : State) : s.beginEncode.wsel = s.wsel := rfl
@[simp] theorem State.beginEncode_rdata (s : State) : s.beginEncode.rdata = s.rdata := rfl
@[simp] theorem State.beginEncode_inputs (s : State) : s.beginEncode.inputs = s.inputs := rfl

@[simp] theorem State.storeResults_mb (s : State) (c : Byte) (v : Vector Index 24) : (s.storeResults c v).mb = s.mb.set 32 c := rfl
@[simp] theorem State.storeResults_entCnt (s : State) (c : Byte) (v : Vector Index 24) : (s.storeResults c v).entCnt = s.entCnt := rfl
@[simp] theorem State.storeResults_idx (s : State) (c : Byte) (v : Vector Index 24) : (s.storeResults c v).idx = v := rfl
@[simp] theorem State.storeResults_busy (s : State) (c : Byte) (v : Vector Index 24) : (s.storeResults c v).busy = false := rfl
@[simp] theorem State.storeResults_done (s : State) (c : Byte) (v : Vector Index 24) : (s.storeResults c v).done = true := rfl
@[simp] theorem State.storeResults_errcode (s : State) (c : Byte) (v : Vector Index 24) : (s.storeResults c v).errcode = s.errcode := rfl
@[simp] theorem State.storeResults_accerr (s : State) (c : Byte) (v : Vector Index 24) : (s.storeResults c v).accerr = s.accerr := rfl
@[simp] theorem State.storeResults_ptr (s : State) (c : Byte) (v : Vector Index 24) : (s.storeResults c v).ptr = 0 := rfl
@[simp] theorem State.storeResults_wsel (s : State) (c : Byte) (v : Vector Index 24) : (s.storeResults c v).wsel = s.wsel := rfl
@[simp] theorem State.storeResults_rdata (s : State) (c : Byte) (v : Vector Index 24) : (s.storeResults c v).rdata = s.rdata := rfl
@[simp] theorem State.storeResults_inputs (s : State) (c : Byte) (v : Vector Index 24) : (s.storeResults c v).inputs = s.inputs := rfl

@[simp] theorem State.advancePtr_mb (s : State) : s.advancePtr.mb = s.mb := rfl
@[simp] theorem State.advancePtr_entCnt (s : State) : s.advancePtr.entCnt = s.entCnt := rfl
@[simp] theorem State.advancePtr_idx (s : State) : s.advancePtr.idx = s.idx := rfl
@[simp] theorem State.advancePtr_busy (s : State) : s.advancePtr.busy = s.busy := rfl
@[simp] theorem State.advancePtr_done (s : State) : s.advancePtr.done = s.done := rfl
@[simp] theorem State.advancePtr_errcode (s : State) : s.advancePtr.errcode = s.errcode := rfl
@[simp] theorem State.advancePtr_accerr (s : State) : s.advancePtr.accerr = s.accerr := rfl
@[simp] theorem State.advancePtr_ptr (s : State) : s.advancePtr.ptr = s.ptr + 1 := rfl
@[simp] theorem State.advancePtr_wsel (s : State) : s.advancePtr.wsel = s.wsel := rfl
@[simp] theorem State.advancePtr_rdata (s : State) : s.advancePtr.rdata = s.rdata := rfl
@[simp] theorem State.advancePtr_inputs (s : State) : s.advancePtr.inputs = s.inputs := rfl

@[simp] theorem State.rewindPtr_mb (s : State) : s.rewindPtr.mb = s.mb := rfl
@[simp] theorem State.rewindPtr_entCnt (s : State) : s.rewindPtr.entCnt = s.entCnt := rfl
@[simp] theorem State.rewindPtr_idx (s : State) : s.rewindPtr.idx = s.idx := rfl
@[simp] theorem State.rewindPtr_busy (s : State) : s.rewindPtr.busy = s.busy := rfl
@[simp] theorem State.rewindPtr_done (s : State) : s.rewindPtr.done = s.done := rfl
@[simp] theorem State.rewindPtr_errcode (s : State) : s.rewindPtr.errcode = s.errcode := rfl
@[simp] theorem State.rewindPtr_accerr (s : State) : s.rewindPtr.accerr = s.accerr := rfl
@[simp] theorem State.rewindPtr_ptr (s : State) : s.rewindPtr.ptr = 0 := rfl
@[simp] theorem State.rewindPtr_wsel (s : State) : s.rewindPtr.wsel = s.wsel := rfl
@[simp] theorem State.rewindPtr_rdata (s : State) : s.rewindPtr.rdata = s.rdata := rfl
@[simp] theorem State.rewindPtr_inputs (s : State) : s.rewindPtr.inputs = s.inputs := rfl

@[simp] theorem State.setWsel_mb (s : State) (v : Index) : (s.setWsel v).mb = s.mb := rfl
@[simp] theorem State.setWsel_entCnt (s : State) (v : Index) : (s.setWsel v).entCnt = s.entCnt := rfl
@[simp] theorem State.setWsel_idx (s : State) (v : Index) : (s.setWsel v).idx = s.idx := rfl
@[simp] theorem State.setWsel_busy (s : State) (v : Index) : (s.setWsel v).busy = s.busy := rfl
@[simp] theorem State.setWsel_done (s : State) (v : Index) : (s.setWsel v).done = s.done := rfl
@[simp] theorem State.setWsel_errcode (s : State) (v : Index) : (s.setWsel v).errcode = s.errcode := rfl
@[simp] theorem State.setWsel_accerr (s : State) (v : Index) : (s.setWsel v).accerr = s.accerr := rfl
@[simp] theorem State.setWsel_ptr (s : State) (v : Index) : (s.setWsel v).ptr = s.ptr := rfl
@[simp] theorem State.setWsel_wsel (s : State) (v : Index) : (s.setWsel v).wsel = v := rfl
@[simp] theorem State.setWsel_rdata (s : State) (v : Index) : (s.setWsel v).rdata = s.rdata := rfl
@[simp] theorem State.setWsel_inputs (s : State) (v : Index) : (s.setWsel v).inputs = s.inputs := rfl

@[simp] theorem State.beginCycle_mb (s : State) : s.beginCycle.mb = s.mb := rfl
@[simp] theorem State.beginCycle_entCnt (s : State) : s.beginCycle.entCnt = s.entCnt := rfl
@[simp] theorem State.beginCycle_idx (s : State) : s.beginCycle.idx = s.idx := rfl
@[simp] theorem State.beginCycle_busy (s : State) : s.beginCycle.busy = s.busy := rfl
@[simp] theorem State.beginCycle_done (s : State) : s.beginCycle.done = s.done := rfl
@[simp] theorem State.beginCycle_errcode (s : State) : s.beginCycle.errcode = s.errcode := rfl
@[simp] theorem State.beginCycle_accerr (s : State) : s.beginCycle.accerr = s.accerr := rfl
@[simp] theorem State.beginCycle_ptr (s : State) : s.beginCycle.ptr = s.ptr := rfl
@[simp] theorem State.beginCycle_wsel (s : State) : s.beginCycle.wsel = s.wsel := rfl
@[simp] theorem State.beginCycle_rdata (s : State) : s.beginCycle.rdata = 0 := rfl
@[simp] theorem State.beginCycle_inputs (s : State) : s.beginCycle.inputs = s.inputs.tail := rfl

@[simp] theorem State.issue_mb (s : State) (w : TWord) : (s.issue w).mb = s.mb := rfl
@[simp] theorem State.issue_entCnt (s : State) (w : TWord) : (s.issue w).entCnt = s.entCnt := rfl
@[simp] theorem State.issue_idx (s : State) (w : TWord) : (s.issue w).idx = s.idx := rfl
@[simp] theorem State.issue_busy (s : State) (w : TWord) : (s.issue w).busy = s.busy := rfl
@[simp] theorem State.issue_done (s : State) (w : TWord) : (s.issue w).done = s.done := rfl
@[simp] theorem State.issue_errcode (s : State) (w : TWord) : (s.issue w).errcode = s.errcode := rfl
@[simp] theorem State.issue_accerr (s : State) (w : TWord) : (s.issue w).accerr = s.accerr := rfl
@[simp] theorem State.issue_ptr (s : State) (w : TWord) : (s.issue w).ptr = s.ptr := rfl
@[simp] theorem State.issue_wsel (s : State) (w : TWord) : (s.issue w).wsel = s.wsel := rfl
@[simp] theorem State.issue_rdata (s : State) (w : TWord) : (s.issue w).rdata = s.rdata := rfl
@[simp] theorem State.issue_inputs (s : State) (w : TWord) : (s.issue w).inputs = Cycle.ofWord w :: s.inputs := rfl

@[simp] theorem State.clearElements_mb (s : State) : s.clearElements.mb = Vector.replicate 33 0 := rfl
@[simp] theorem State.clearElements_entCnt (s : State) : s.clearElements.entCnt = 0 := rfl
@[simp] theorem State.clearElements_idx (s : State) : s.clearElements.idx = Vector.replicate 24 0 := rfl
@[simp] theorem State.clearElements_busy (s : State) : s.clearElements.busy = false := rfl
@[simp] theorem State.clearElements_done (s : State) : s.clearElements.done = false := rfl
@[simp] theorem State.clearElements_errcode (s : State) : s.clearElements.errcode = 0 := rfl
@[simp] theorem State.clearElements_accerr (s : State) : s.clearElements.accerr = false := rfl
@[simp] theorem State.clearElements_ptr (s : State) : s.clearElements.ptr = 0 := rfl
@[simp] theorem State.clearElements_wsel (s : State) : s.clearElements.wsel = 0 := rfl
@[simp] theorem State.clearElements_rdata (s : State) : s.clearElements.rdata = s.rdata := rfl
@[simp] theorem State.clearElements_inputs (s : State) : s.clearElements.inputs = s.inputs := rfl

@[simp] theorem State.resetEdge_mb (s : State) : s.resetEdge.mb = Vector.replicate 33 0 := rfl
@[simp] theorem State.resetEdge_entCnt (s : State) : s.resetEdge.entCnt = 0 := rfl
@[simp] theorem State.resetEdge_idx (s : State) : s.resetEdge.idx = Vector.replicate 24 0 := rfl
@[simp] theorem State.resetEdge_busy (s : State) : s.resetEdge.busy = false := rfl
@[simp] theorem State.resetEdge_done (s : State) : s.resetEdge.done = false := rfl
@[simp] theorem State.resetEdge_errcode (s : State) : s.resetEdge.errcode = 0 := rfl
@[simp] theorem State.resetEdge_accerr (s : State) : s.resetEdge.accerr = false := rfl
@[simp] theorem State.resetEdge_ptr (s : State) : s.resetEdge.ptr = 0 := rfl
@[simp] theorem State.resetEdge_wsel (s : State) : s.resetEdge.wsel = 0 := rfl
@[simp] theorem State.resetEdge_rdata (s : State) : s.resetEdge.rdata = 0 := rfl
@[simp] theorem State.resetEdge_inputs (s : State) : s.resetEdge.inputs = s.inputs := rfl

end Sys2Proof.Machine
end

