-- ==== Sys2Proof/Laws/Ops.lean ====
section
/-! SUPPORT. One lemma per shared operation: everything it can do. -/

namespace Sys2Proof.Machine

theorem gatedRead_of_done (f : State → Byte) {s : State} (h : s.done = true) : gatedRead f s = s.drive (f s) := by
  simp [gatedRead, h]

theorem gatedRead_of_not_done (f : State → Byte) {s : State} (h : s.done = false) :
    gatedRead f s = s.flagAccErr.drive 0 := by
  simp [gatedRead, h]

/-- A gated read changes the read data and, with DONE = 0, ACCERR; nothing else. -/
theorem gatedRead_frame (f : State → Byte) (s : State) :
    gatedRead f s = { s with rdata := (gatedRead f s).rdata, accerr := s.accerr || !s.done } := by
  cases h : s.done <;> simp [gatedRead, h, State.drive, State.flagAccErr]

theorem refusesLoad_iff (s : State) : s.refusesLoad = true ↔ s.busy = true ∨ s.errcode ≠ 0 := by
  simp [State.refusesLoad]

theorem refusesLoad_eq_false_iff (s : State) : s.refusesLoad = false ↔ s.busy = false ∧ s.errcode = 0 := by
  simp [State.refusesLoad]

theorem pushByte_getElem (s : State) (d : Byte) (j : Nat) (h : j < 33) :
    (s.pushByte d).mb[j] = if s.entCnt.toNat = j then d else s.mb[j] := by
  simp only [State.pushByte_mb, Vector.getElem_setIfInBounds h]

theorem storeResults_getElem (s : State) (c : Byte) (v : Vector Index 24) (j : Nat) (h : j < 33) :
    (s.storeResults c v).mb[j] = if 32 = j then c else s.mb[j] := by
  simp only [State.storeResults_mb, Vector.getElem_set]

/-- At an edge the engine either completes, which needs BUSY = 1 before and after the cycle's transaction, or does nothing. -/
theorem engineEdge_cases (fire was : Bool) (s : State) :
    (fire = true ∧ was = true ∧ s.busy = true ∧ engineEdge fire was s = encComplete s) ∨
      (¬ (fire = true ∧ was = true ∧ s.busy = true) ∧ engineEdge fire was s = s) := by
  unfold engineEdge
  cases fire <;> cases was <;> cases s.busy <;> simp

theorem engineEdge_of_quiet {fire was : Bool} {s : State} (h : ¬ (fire = true ∧ was = true ∧ s.busy = true)) :
    engineEdge fire was s = s := by
  obtain ⟨h1, h2, h3, -⟩ | ⟨-, h'⟩ := engineEdge_cases fire was s
  · exact absurd ⟨h1, h2, h3⟩ h
  · exact h'

theorem engineEdge_of_due {fire was : Bool} {s : State} (h1 : fire = true) (h2 : was = true) (h3 : s.busy = true) :
    engineEdge fire was s = encComplete s := by
  simp [engineEdge, h1, h2, h3]

theorem afterBus_eq_next {f : State → State} {o : Host.Outcome State Fault Refusal} {t : State}
    (h : afterBus f o = .next t) : ∃ u, o = .next u ∧ t = f u := by
  cases o with
  | next u => exact ⟨u, rfl, by simpa [afterBus] using h.symm⟩
  | fault r => simp [afterBus] at h
  | refused r => simp [afterBus] at h

end Sys2Proof.Machine
end

