-- ==== Sys2Proof/Laws/Operands.lean ====
section
/-! SUPPORT. What the computed operands are, bit by bit and byte by byte. -/

namespace Sys2Proof.Machine

theorem highByte_toNat (v : Index) : (highByte v).toNat = v.toNat / 256 := by
  simp [highByte, BitVec.toNat_setWidth, BitVec.extractLsb'_toNat, Nat.shiftRight_eq_div_pow]
  omega

theorem lowByte_toNat (v : Index) : (lowByte v).toNat = v.toNat % 256 := by
  simp [lowByte, BitVec.extractLsb'_toNat]

/-- Setting the high half keeps the low one (R153). -/
theorem withHigh_toNat (v : Index) (d : BitVec 3) : (withHigh v d).toNat = d.toNat * 256 + v.toNat % 256 := by
  have h : (withHigh v d).toNat = (d ++ v.extractLsb' 0 8).toNat := rfl
  rw [h, BitVec.toNat_append, BitVec.extractLsb'_toNat, ← Nat.shiftLeft_add_eq_or_of_lt (by omega), Nat.shiftLeft_eq]
  simp

/-- Setting the low half keeps the high one (R154). -/
theorem withLow_toNat (v : Index) (d : Byte) : (withLow v d).toNat = v.toNat / 256 * 256 + d.toNat := by
  have h : (withLow v d).toNat = (v.extractLsb' 8 3 ++ d).toNat := rfl
  have hv := v.isLt
  rw [h, BitVec.toNat_append, BitVec.extractLsb'_toNat, ← Nat.shiftLeft_add_eq_or_of_lt (by omega), Nat.shiftLeft_eq,
    Nat.shiftRight_eq_div_pow]
  simp
  omega

@[simp] theorem getElem_entropy (mb : Vector Byte 33) (j : Nat) (h : j < 32) : (entropy mb)[j] = mb[j] := by
  simp [entropy]

/-- The checksum reads the entropy bytes only (R122). -/
@[simp] theorem entropy_set_last (mb : Vector Byte 33) (c : Byte) : entropy (mb.set 32 c) = entropy mb := by
  apply Vector.ext
  intro j hj
  rw [getElem_entropy, getElem_entropy, Vector.getElem_set_ne _ _ (by omega)]

@[simp] theorem getElem_lanes (mb : Vector Byte 33) (i : Nat) (h : i < 24) : (lanes mb)[i] = lane mb ⟨i, h⟩ := by
  simp [lanes]

/-! ### The sum of R8 -/

/-- Bits packed MSB first: the sum of R8 for the bits b 0, …, b (m-1). -/
def msbSum (b : Nat → Bool) (m : Nat) : Nat := ((List.range m).map fun k => (b k).toNat * 2 ^ (m - 1 - k)).sum

theorem msbSum_succ (b : Nat → Bool) (m : Nat) : msbSum b (m + 1) = 2 * msbSum b m + (b m).toNat := by
  have hterm : ∀ k ∈ List.range m, (b k).toNat * 2 ^ (m + 1 - 1 - k) = 2 * ((b k).toNat * 2 ^ (m - 1 - k)) := by
    intro k hk
    have hlt := List.mem_range.mp hk
    rw [show m + 1 - 1 - k = (m - 1 - k) + 1 by omega, pow_succ]
    ring
  simp only [msbSum, List.range_succ, List.map_append, List.sum_append, List.map_cons, List.map_nil, List.sum_cons,
    List.sum_nil, List.map_congr_left hterm, List.sum_map_mul_left]
  simp

theorem msbSum_lt (b : Nat → Bool) (m : Nat) : msbSum b m < 2 ^ m := by
  induction m with
  | zero => simp [msbSum]
  | succ m ih =>
    rw [msbSum_succ, pow_succ]
    have := (b m).toNat_le
    omega

/-- Bit j of the sum, counted from the least significant, is the (m-1-j)-th bit packed. -/
theorem testBit_msbSum (b : Nat → Bool) (m j : Nat) (h : j < m) : (msbSum b m).testBit j = b (m - 1 - j) := by
  induction m generalizing j with
  | zero => omega
  | succ m ih =>
    rw [msbSum_succ]
    cases j with
    | zero => cases hb : b m <;> simp [Nat.testBit_zero, hb, Nat.add_mod]
    | succ j =>
      have hdiv : (2 * msbSum b m + (b m).toNat) / 2 = msbSum b m := by have := (b m).toNat_le; omega
      rw [Nat.testBit_add_one, hdiv, ih j (by omega)]
      congr 1
      omega

/-- The buffer bit at a position, 0 past the end: a total form of `bufBit`. -/
def bufBitD {n : Nat} (data : Vector Byte n) (p : Nat) : Bool := (data[p / 8]?.getD 0).getLsbD (7 - p % 8)

theorem bufBit_eq {n : Nat} (data : Vector Byte n) (p : Nat) (h : p < 8 * n) : bufBit data p h = bufBitD data p := by
  simp [bufBit, bufBitD, Vector.getElem?_eq_getElem (show p / 8 < n by omega)]

/-- Extract packs the bits of its range MSB first (R8). -/
theorem extract_eq_msbSum {n : Nat} (data : Vector Byte n) (low high : Nat) (h : low < high ∧ high ≤ 8 * n) :
    extract data low high h = msbSum (fun k => bufBitD data (low + k)) (high - low) := by
  unfold extract msbSum
  rw [← List.map_coe_finRange_eq_range, List.map_map]
  congr 1
  apply List.map_congr_left
  intro k _
  simp only [Function.comp_apply, bufBit_eq]
  congr 2
  omega

theorem extract_lt {n : Nat} (data : Vector Byte n) (low high : Nat) (h : low < high ∧ high ≤ 8 * n) :
    extract data low high h < 2 ^ (high - low) := by
  rw [extract_eq_msbSum]
  exact msbSum_lt _ _

/-- Bit j of an extract is the buffer bit at position high-1-j (R8). -/
theorem testBit_extract {n : Nat} (data : Vector Byte n) (low high : Nat) (h : low < high ∧ high ≤ 8 * n) (j : Nat)
    (hj : j < high - low) : (extract data low high h).testBit j = bufBit data (high - 1 - j) (by omega) := by
  rw [extract_eq_msbSum, testBit_msbSum _ _ _ hj, bufBit_eq]
  congr 1
  omega

/-- Bit j of lane i is the buffer bit at position 11i + 10 - j (R123). -/
theorem getLsbD_lane (mb : Vector Byte 33) (i : Fin 24) (j : Nat) (hj : j < 11) :
    (lane mb i).getLsbD j = bufBit mb (11 * i.val + (10 - j)) (by omega) := by
  rw [lane, BitVec.getLsbD_ofNat, testBit_extract _ _ _ _ _ (by omega)]
  simp only [hj, decide_true, Bool.true_and]
  congr 1
  omega

theorem toNat_lane (mb : Vector Byte 33) (i : Fin 24) :
    (lane mb i).toNat = extract mb (11 * i.val) (11 * i.val + 11) (by omega) := by
  rw [lane, BitVec.toNat_ofNat]
  apply Nat.mod_eq_of_lt
  have := extract_lt mb (11 * i.val) (11 * i.val + 11) (by omega)
  simpa using this

/-! ### Words and the phrase -/

/-- Every code stands for an allowed byte (R150). -/
theorem wordByteOk_charByte (c : Fin 253) : wordByteOk (charByte c) = true := by
  revert c
  decide +kernel

@[simp] theorem length_wordOf (last : Fin Config.wmax) (chars : Fin Config.wmax → Fin 253) :
    (wordOf last chars).length = last.val + 1 := by
  simp [wordOf]

theorem length_rom (k : Index) : (rom k).length = (Config.wordLast k).val + 1 := by simp [rom]

/-- PLEN is the sum of the word lengths, and 24 (R170). -/
theorem length_phraseOf (words : Index → List Byte) (idx : Vector Index 24) :
    (phraseOf words idx).length = (idx.toList.map fun k => (words k).length).sum + 24 := by
  have key : ∀ l : List (List Byte), l ≠ [] → (List.intercalate [0x20#8] l).length + 1 = (l.map List.length).sum + l.length := by
    intro l hl
    induction l with
    | nil => exact absurd rfl hl
    | cons w l ih =>
      cases l with
      | nil => simp [List.intercalate]
      | cons w' l =>
        have := ih (by simp)
        simp [List.intercalate, List.intersperse] at this ⊢
        omega
  have hlen : (idx.toList.map words).length = 24 := by simp
  have hne : idx.toList.map words ≠ [] := by
    intro h
    rw [h] at hlen
    simp at hlen
  have := key _ hne
  rw [hlen] at this
  simp only [phraseOf, List.length_append, List.length_cons, List.length_nil, List.map_map] at this ⊢
  exact this

theorem sum_map_le {α : Type} (l : List α) (f : α → Nat) (m : Nat) (h : ∀ a, f a ≤ m) : (l.map f).sum ≤ m * l.length := by
  induction l with
  | nil => simp
  | cons a l ih =>
    have := h a
    simp only [List.map_cons, List.sum_cons, List.length_cons, Nat.mul_succ]
    omega

/-- PLEN fits PTR's 9 bits with room for one more (R170, D37). -/
theorem plen_lt (s : State) : s.plen < 511 := by
  have h := sum_map_le s.idx.toList (fun k => (rom k).length) 8 (by
    intro k
    have : (Config.wordLast k).val < 8 := (Config.wordLast k).isLt
    rw [length_rom]
    omega)
  rw [State.plen, State.phrase, length_phraseOf]
  simp only [Vector.length_toList] at h
  omega

end Sys2Proof.Machine
end

