-- ==== Sys2Proof/Laws/PerInstr.lean ====
section
/-! SUPPORT. The per-instruction family ReadWriteBit: the transaction word of an operation has W = 0 for a read and W = 1 for
a write (R80), and a read's word is driven with D = 0x00 (R88). -/

namespace Sys2Proof.Laws

/-- W says read or write, and a read's D field is 0x00 (R80, R88). -/
def ReadWriteBit.Statement (i : Instr) : Prop :=
  fieldW (encode i) = !i.isRead ∧ (i.isRead = true → fieldD (encode i) = 0)

theorem ReadWriteBit.rdMb (j : Fin 32) : ReadWriteBit.Statement (.rdMb j) := by
  have h : ∀ j : Fin 32, fieldW (encode (.rdMb j)) = false ∧ fieldD (encode (.rdMb j)) = 0 := by decide
  simp [ReadWriteBit.Statement, Instr.isRead, h]

theorem ReadWriteBit.rdCsum : ReadWriteBit.Statement .rdCsum := by
  simp only [ReadWriteBit.Statement]
  decide

theorem ReadWriteBit.rdCtrl : ReadWriteBit.Statement .rdCtrl := by
  simp only [ReadWriteBit.Statement]
  decide

theorem ReadWriteBit.rdStatus : ReadWriteBit.Statement .rdStatus := by
  simp only [ReadWriteBit.Statement]
  decide

theorem ReadWriteBit.rdErrcode : ReadWriteBit.Statement .rdErrcode := by
  simp only [ReadWriteBit.Statement]
  decide

theorem ReadWriteBit.rdEntCnt : ReadWriteBit.Statement .rdEntCnt := by
  simp only [ReadWriteBit.Statement]
  decide

theorem ReadWriteBit.rdEntIn : ReadWriteBit.Statement .rdEntIn := by
  simp only [ReadWriteBit.Statement]
  decide

theorem ReadWriteBit.rdPhrData : ReadWriteBit.Statement .rdPhrData := by
  simp only [ReadWriteBit.Statement]
  decide

theorem ReadWriteBit.rdWselHi : ReadWriteBit.Statement .rdWselHi := by
  simp only [ReadWriteBit.Statement]
  decide

theorem ReadWriteBit.rdWselLo : ReadWriteBit.Statement .rdWselLo := by
  simp only [ReadWriteBit.Statement]
  decide

theorem ReadWriteBit.rdWlen : ReadWriteBit.Statement .rdWlen := by
  simp only [ReadWriteBit.Statement]
  decide

theorem ReadWriteBit.rdWchr (j : Fin 16) : ReadWriteBit.Statement (.rdWchr j) := by
  have h : ∀ j : Fin 16, fieldW (encode (.rdWchr j)) = false ∧ fieldD (encode (.rdWchr j)) = 0 := by decide
  simp [ReadWriteBit.Statement, Instr.isRead, h]

theorem ReadWriteBit.rdIdxHi (i : Fin 24) : ReadWriteBit.Statement (.rdIdxHi i) := by
  have h : ∀ i : Fin 24, fieldW (encode (.rdIdxHi i)) = false ∧ fieldD (encode (.rdIdxHi i)) = 0 := by decide
  simp [ReadWriteBit.Statement, Instr.isRead, h]

theorem ReadWriteBit.rdIdxLo (i : Fin 24) : ReadWriteBit.Statement (.rdIdxLo i) := by
  have h : ∀ i : Fin 24, fieldW (encode (.rdIdxLo i)) = false ∧ fieldD (encode (.rdIdxLo i)) = 0 := by decide
  simp [ReadWriteBit.Statement, Instr.isRead, h]

theorem ReadWriteBit.rdRsvd (a : Byte) : ReadWriteBit.Statement (.rdRsvd a) := by
  simp [ReadWriteBit.Statement, encode, Instr.isRead]

theorem ReadWriteBit.wrCtrlClear : ReadWriteBit.Statement .wrCtrlClear := by
  simp only [ReadWriteBit.Statement]
  decide

theorem ReadWriteBit.wrCtrlStart : ReadWriteBit.Statement .wrCtrlStart := by
  simp only [ReadWriteBit.Statement]
  decide

theorem ReadWriteBit.wrCtrlPrw : ReadWriteBit.Statement .wrCtrlPrw := by
  simp only [ReadWriteBit.Statement]
  decide

theorem ReadWriteBit.wrCtrlNop : ReadWriteBit.Statement .wrCtrlNop := by
  simp only [ReadWriteBit.Statement]
  decide

theorem ReadWriteBit.wrEntIn (d : Byte) : ReadWriteBit.Statement (.wrEntIn d) := by
  have h : ∀ d : Byte, fieldW (encode (.wrEntIn d)) = true := by decide
  simp [ReadWriteBit.Statement, Instr.isRead, h]

theorem ReadWriteBit.wrWselHi (d : BitVec 3) : ReadWriteBit.Statement (.wrWselHi d) := by
  have h : ∀ d : BitVec 3, fieldW (encode (.wrWselHi d)) = true := by decide
  simp [ReadWriteBit.Statement, Instr.isRead, h]

theorem ReadWriteBit.wrWselLo (d : Byte) : ReadWriteBit.Statement (.wrWselLo d) := by
  have h : ∀ d : Byte, fieldW (encode (.wrWselLo d)) = true := by decide
  simp [ReadWriteBit.Statement, Instr.isRead, h]

theorem ReadWriteBit.wrIllegal (a d : Byte) : ReadWriteBit.Statement (.wrIllegal a d) := by
  simp [ReadWriteBit.Statement, encode, Instr.isRead]

end Sys2Proof.Laws
end

