-- ==== Sys2Proof/Laws/Step.lean ====
section
/-! SUPPORT. What a step can do: reset the block, run a transaction or stay idle, and then complete an encoding or not. -/

namespace Sys2Proof.Machine

@[simp] theorem nextCycle_of_cons {s : State} {c : Cycle} {cs : List Cycle} (h : s.inputs = c :: cs) : s.nextCycle = c := by
  simp [State.nextCycle, h]

theorem nextCycle_of_nil {s : State} (h : s.inputs = []) : s.nextCycle = quietCycle := by
  simp [State.nextCycle, h]

@[simp] theorem nextCycle_issue (s : State) (w : TWord) : (s.issue w).nextCycle = Cycle.ofWord w := rfl

@[simp] theorem beginCycle_issue (s : State) (w : TWord) : (s.issue w).beginCycle = { s with rdata := 0 } := rfl

@[simp] theorem word_ofWord (w : TWord) : (Cycle.ofWord w).word = w := tword_fields w

/-- A step in a cycle with rst = 1 (R250). -/
theorem step_of_rst {s : State} (h : s.nextCycle.rst = true) : step s = .next s.beginCycle.resetEdge := by
  simp [step, runCycle, h]

/-- A step in a cycle with no transaction. -/
theorem step_of_idle {s : State} (h1 : s.nextCycle.rst = false) (h2 : s.nextCycle.sel = false) :
    step s = .next (engineEdge s.nextCycle.fire s.busy s.beginCycle) := by
  simp [step, runCycle, busPhase, afterBus, h1, h2]

/-- A step in a cycle with a transaction. -/
theorem step_of_bus {s : State} (h1 : s.nextCycle.rst = false) (h2 : s.nextCycle.sel = true) :
    step s = afterBus (engineEdge s.nextCycle.fire s.busy) (exec (decode s.nextCycle.word) s.beginCycle) := by
  simp [step, runCycle, busPhase, h1, h2]

/-- Everything a step that answers a next state can have done. -/
theorem step_cases {s t : State} (h : step s = .next t) :
    (s.nextCycle.rst = true ∧ t = s.beginCycle.resetEdge) ∨
      (s.nextCycle.rst = false ∧ s.nextCycle.sel = false ∧ t = engineEdge s.nextCycle.fire s.busy s.beginCycle) ∨
        (s.nextCycle.rst = false ∧ s.nextCycle.sel = true ∧
          ∃ u, exec (decode s.nextCycle.word) s.beginCycle = .next u ∧ t = engineEdge s.nextCycle.fire s.busy u) := by
  cases h1 : s.nextCycle.rst with
  | true =>
    rw [step_of_rst h1] at h
    exact .inl ⟨rfl, by injection h with h; exact h.symm⟩
  | false =>
    cases h2 : s.nextCycle.sel with
    | false =>
      rw [step_of_idle h1 h2] at h
      exact .inr (.inl ⟨rfl, rfl, by injection h with h; exact h.symm⟩)
    | true =>
      rw [step_of_bus h1 h2] at h
      exact .inr (.inr ⟨rfl, rfl, afterBus_eq_next h⟩)

/-- A run of one more step goes through the next state. -/
theorem run_succ_of_next {k : Nat} {s u : State} (h : step s = .next u) :
    Host.Core.run core (k + 1) s = Host.Core.run core k u := by
  have h' : core.step s = .next u := h
  simp only [Host.Core.run, h']

theorem execAll_cons_of_next {i : Instr} {is : List Instr} {s t : State} (h : exec i s = .next t) :
    execAll (i :: is) s = execAll is t := by
  simp only [execAll, h]

theorem execAll_append_of_next {is js : List Instr} {s t : State} (h : execAll is s = .next t) :
    execAll (is ++ js) s = execAll js t := by
  induction is generalizing s with
  | nil =>
    have h' : s = t := by simpa [execAll] using h
    rw [List.nil_append, h']
  | cons i is ih =>
    cases hi : exec i s with
    | next u =>
      rw [execAll_cons_of_next hi] at h
      rw [List.cons_append, execAll_cons_of_next hi]
      exact ih h
    | fault r => simp [execAll, hi] at h
    | refused r => simp [execAll, hi] at h

theorem readAll_cons_of_next {i : Instr} {is : List Instr} {s t : State} (h : exec i s = .next t) :
    readAll (i :: is) s = (readAll is t).map fun r => (t.rdata :: r.1, r.2) := by
  simp only [readAll, h]

end Sys2Proof.Machine
end

