-- ==== Sys2Proof/Tests/Slice0.lean ====
section
/-! SUPPORT. Tests of the model: the checks of WellFormed, one word a row of the opcode map, values and single steps of the
spec's test vectors (95_test_vectors.md), and for every statement with hypotheses a state and operands that meet them. Every
expected value is the spec's. -/

namespace Sys2Proof.Tests

open Sys2Proof.Machine

/-! ### WellFormed: an ill-formed operation for each check, and the ends of its ranges (R52, R196) -/

theorem test_wf_refuses_unreserved_read : (Instr.rdRsvd 0x41).wf = false := by decide
theorem test_wf_refuses_idx_read_as_reserved : (Instr.rdRsvd 0xAF).wf = false := by decide
theorem test_wf_refuses_writable_address :
    (Instr.wrIllegal 0x40 0).wf = false ∧ (Instr.wrIllegal 0x44 0).wf = false ∧ (Instr.wrIllegal 0x46 0).wf = false ∧
      (Instr.wrIllegal 0x47 0).wf = false := by decide
theorem test_wf_accepts_reserved_ends :
    (Instr.rdRsvd 0x21).wf = true ∧ (Instr.rdRsvd 0x3F).wf = true ∧ (Instr.rdRsvd 0x49).wf = true ∧
      (Instr.rdRsvd 0x4F).wf = true ∧ (Instr.rdRsvd 0x60).wf = true ∧ (Instr.rdRsvd 0x7F).wf = true ∧
        (Instr.rdRsvd 0xB0).wf = true ∧ (Instr.rdRsvd 0xFF).wf = true := by decide

/-! ### One word of each row (R83) -/

/-- RD.MB, pattern 0 000jjjjj x, j = 31. -/
theorem test_decode_rdMb : decode 0x01F00 = .rdMb 31 := by decide

/-- RD.CSUM, pattern 0 00100000 x. -/
theorem test_decode_rdCsum : decode 0x02000 = .rdCsum := by decide

/-- RD.CTRL, 0 01000000 x. -/
theorem test_decode_rdCtrl : decode 0x04000 = .rdCtrl := by decide

/-- RD.STATUS, 0 01000001 x. -/
theorem test_decode_rdStatus : decode 0x04100 = .rdStatus := by decide

/-- RD.ERRCODE, 0 01000010 x. -/
theorem test_decode_rdErrcode : decode 0x04200 = .rdErrcode := by decide

/-- RD.ENT_CNT, 0 01000011 x. -/
theorem test_decode_rdEntCnt : decode 0x04300 = .rdEntCnt := by decide

/-- RD.ENT_IN, 0 01000100 x. -/
theorem test_decode_rdEntIn : decode 0x04400 = .rdEntIn := by decide

/-- RD.PHR_DATA, 0 01000101 x. -/
theorem test_decode_rdPhrData : decode 0x04500 = .rdPhrData := by decide

/-- RD.WSEL_HI, 0 01000110 x. -/
theorem test_decode_rdWselHi : decode 0x04600 = .rdWselHi := by decide

/-- RD.WSEL_LO, 0 01000111 x. -/
theorem test_decode_rdWselLo : decode 0x04700 = .rdWselLo := by decide

/-- RD.WLEN, 0 01001000 x. -/
theorem test_decode_rdWlen : decode 0x04800 = .rdWlen := by decide

/-- W4: RD WCHR[3]. -/
theorem test_decode_rdWchr : decode 0x05300 = .rdWchr 3 := by decide

/-- P1: RD IDX_HI[23]. -/
theorem test_decode_rdIdxHi : decode 0x0AE00 = .rdIdxHi 23 := by decide

/-- P4: RD IDX_LO[5]. -/
theorem test_decode_rdIdxLo : decode 0x08B00 = .rdIdxLo 5 := by decide

/-- P5: RD 0xB0, which looks like IDX_HI[24]. -/
theorem test_decode_rdRsvd : decode 0x0B000 = .rdRsvd 0xB0 := by decide

/-- K2: CTRL data 0x03 is CLEAR. -/
theorem test_decode_wrCtrlClear : decode 0x14003 = .wrCtrlClear := by decide

/-- K3: CTRL data 0x05 is START. -/
theorem test_decode_wrCtrlStart : decode 0x14005 = .wrCtrlStart := by decide

/-- K5: CTRL data 0x0C is PRW. -/
theorem test_decode_wrCtrlPrw : decode 0x1400C = .wrCtrlPrw := by decide

/-- K6: CTRL data 0xF8 is NOP. -/
theorem test_decode_wrCtrlNop : decode 0x140F8 = .wrCtrlNop := by decide

/-- R80: WR ENT_IN, 0x5A. -/
theorem test_decode_wrEntIn : decode 0x1445A = .wrEntIn 0x5A := by decide

/-- W3: D[7:3] ignored. -/
theorem test_decode_wrWselHi : decode 0x146FF = .wrWselHi 7 := by decide

/-- W2. -/
theorem test_decode_wrWselLo : decode 0x14766 = .wrWselLo 0x66 := by decide

/-- B9: WR MB[0], 0x12. -/
theorem test_decode_wrIllegal : decode 0x10012 = .wrIllegal 0x00 0x12 := by decide

/-- R80, R86: there is no transaction of more than 17 bits. -/
theorem test_decode_rejects_wide_numbers :
    decodeNat 0x20000 = .error .widerThanATransaction ∧ decodeTableWord 24 0x20000 = none := by
  refine ⟨rfl, rfl⟩

/-- R81: the table's numbering is the transaction word's own. -/
theorem test_decodeTableWord : decodeTableWord 24 0x0AE00 = some (.rdIdxHi 23) := by decide

/-! ### Small states -/

/-- A buffer of the listed bytes, 0x00 after them. -/
def bufferOf (bs : List Byte) : Vector Byte 33 := Vector.ofFn fun j => bs.getD j.val 0

/-- The reset state with 32 bytes loaded. -/
def loaded (bs : List Byte) : State := { State.reset with mb := bufferOf bs, entCnt := 32 }

/-- The state after an operation, if it has one. -/
def ran (i : Instr) (s : State) : Option State :=
  match exec i s with
  | .next t => some t
  | .fault _ => none
  | .refused _ => none

/-- The state after a cycle, if it has one. -/
def stepped (s : State) : Option State :=
  match step s with
  | .next t => some t
  | .fault _ => none
  | .refused _ => none

/-- A cycle in which the host issues w. -/
def issues (w : TWord) (fire : Bool) : Cycle := { Cycle.ofWord w with fire := fire }

/-- A cycle with rst = 1 and w on the pins. -/
def resets (w : TWord) : Cycle := { Cycle.ofWord w with rst := true, fire := true }

/-- A cycle with no transaction. -/
def idles (fire : Bool) : Cycle := { quietCycle with fire := fire }

/-- 32 bytes loaded, an encoding pending. -/
def pending : State := { loaded [] with busy := true }

/-- V1 done: 32 bytes 0x00, checksum 0x66, IDX 0 × 23 and 102. -/
def doneV1 : State :=
  { State.reset with
    mb := (Vector.replicate 33 0).set 32 0x66
    entCnt := 32
    idx := (Vector.replicate 24 0).set 23 102
    done := true }

/-- After a LenShort with ten bytes loaded (P2). -/
def failed : State := { State.reset with entCnt := 10, errcode := 1 }

/-! ### The extractor and the lanes: vectors X1 to X11, V4, V5 -/

/-- X1, X2, X3, X4. -/
theorem test_extract_a53c :
    extract #v[(0xA5 : Byte), 0x3C] 0 11 (by decide) = 0x529 ∧ extract #v[(0xA5 : Byte), 0x3C] 0 16 (by decide) = 0xA53C ∧
      extract #v[(0xA5 : Byte), 0x3C] 3 4 (by decide) = 0 ∧ extract #v[(0xA5 : Byte), 0x3C] 0 1 (by decide) = 1 := by decide

/-- X5, X6, X7. -/
theorem test_extract_a53c_windows :
    extract #v[(0xA5 : Byte), 0x3C] 15 16 (by decide) = 0 ∧ extract #v[(0xA5 : Byte), 0x3C] 5 13 (by decide) = 0xA7 ∧
      extract #v[(0xA5 : Byte), 0x3C] 4 12 (by decide) = 0x53 := by decide

/-- X8, X9, X10, X11. -/
theorem test_extract_123456 :
    extract #v[(0x12 : Byte), 0x34, 0x56] 0 24 (by decide) = 0x123456 ∧
      extract #v[(0x12 : Byte), 0x34, 0x56] 11 22 (by decide) = 0x515 ∧
        extract #v[(0x12 : Byte), 0x34, 0x56] 2 13 (by decide) = 0x246 ∧
          extract #v[(0x12 : Byte), 0x34, 0x56] 13 24 (by decide) = 0x456 := by decide

/-- V5: lanes 2 and 23 by the table of R125, with checksum 0x63. -/
theorem test_lane_v5 :
    lane ((bufferOf ((List.range 32).map (BitVec.ofNat 8))).set 32 0x63) 2 = 1030 ∧
      lane ((bufferOf ((List.range 32).map (BitVec.ofNat 8))).set 32 0x63) 23 = 1891 := by decide +kernel

/-- V4: all 24 indices, with checksum 0xbd. -/
theorem test_lanes_v4 :
    (lanes ((bufferOf (List.replicate 32 0x80)).set 32 0xbd)).toList =
      [1028, 32, 257, 8, 64, 514, 16, 128, 1028, 32, 257, 8, 64, 514, 16, 128, 1028, 32, 257, 8, 64, 514, 16, 189] := by
  decide +kernel

/-! ### The hash and the completion: vectors V1, V2, V6, V7, E14 -/

/-- V1: the whole digest of 32 bytes 0x00. -/
theorem test_hash_v1 :
    hash (Vector.replicate 32 0) =
      #v[0x66, 0x68, 0x7a, 0xad, 0xf8, 0x62, 0xbd, 0x77, 0x6c, 0x8f, 0xc1, 0x8b, 0x8e, 0x9f, 0x8e, 0x20, 0x08, 0x97,
        0x14, 0x85, 0x6e, 0xe2, 0x33, 0xb3, 0x90, 0x2a, 0x59, 0x1d, 0x0d, 0x5f, 0x29, 0x25] := by decide +kernel

/-- V6: entropy SHA-256(""), checksum 0x5d. -/
theorem test_hash_v6 :
    checksum hash
      (bufferOf [0xe3, 0xb0, 0xc4, 0x42, 0x98, 0xfc, 0x1c, 0x14, 0x9a, 0xfb, 0xf4, 0xc8, 0x99, 0x6f, 0xb9, 0x24, 0x27,
        0xae, 0x41, 0xe4, 0x64, 0x9b, 0x93, 0x4c, 0xa4, 0x95, 0x99, 0x1b, 0x78, 0x52, 0xb8, 0x55]) = 0x5d := by
  decide +kernel

/-- V2: checksum 0xaf, IDX[22] = 2047, IDX[23] = 1967. -/
theorem test_complete_v2 :
    (encComplete { loaded (List.replicate 32 0xff) with busy := true }).mb[32] = 0xaf ∧
      (encComplete { loaded (List.replicate 32 0xff) with busy := true }).idx[22] = 2047 ∧
        (encComplete { loaded (List.replicate 32 0xff) with busy := true }).idx[23] = 1967 := by decide +kernel

/-- V7: the entropy's last bit lands in bit 8 of IDX[23], above the checksum 0xec. -/
theorem test_complete_v7 :
    (encComplete { loaded (List.replicate 31 0 ++ [0x01]) with busy := true }).idx[23] = 492 := by decide +kernel

/-- E14: position 253 set (MB[31] = 0x04): IDX[23] = 1251, and lane 22 is untouched. -/
theorem test_complete_e14 :
    (encComplete { loaded (List.replicate 31 0 ++ [0x04]) with busy := true }).idx[23] = 1251 ∧
      (encComplete { loaded (List.replicate 31 0 ++ [0x04]) with busy := true }).idx[22] = 0 := by decide +kernel

/-- V1, through a step: BUSY = 1 and the edge at which the engine completes; STATUS is then DONE alone. -/
theorem test_complete_step_v1 :
    (stepped { pending with inputs := [idles true] }).map (fun t => (t.mb[32], t.idx[22], t.idx[23], t.busy, t.done)) =
      some (0x66, 0, 102, false, true) := by decide +kernel

/-! ### Buffer load: B1, B3, B4, B5, B9 -/

/-- B1. -/
theorem test_push_first : (ran (.wrEntIn 0xAB) State.reset).map (fun t => (t.mb[0], t.mb[1], t.entCnt)) = some (0xAB, 0, 1) := by
  decide

/-- B3: the 33rd byte is dropped, LenLong. -/
theorem test_push_33rd :
    (ran (.wrEntIn 0x20) (loaded [1, 2])).map (fun t => (t.errcode, t.mb[31], t.mb[32], t.entCnt, t.accerr)) =
      some (2, 0, 0, 32, false) := by decide

/-- B4: a push while BUSY is AccErr, not LenLong. -/
theorem test_push_while_busy : (ran (.wrEntIn 0) pending).map (fun t => (t.accerr, t.errcode, t.busy)) = some (true, 0, true) := by
  decide

/-- B2, R103: MB[j] reads back. -/
theorem test_read_back : (ran (.rdMb 1) (loaded [0xAB, 0xCD])).map (·.rdata) = some 0xCD := by decide

/-- B8. -/
theorem test_count_full : (ran .rdEntCnt (loaded [])).map (·.rdata) = some 0x20 := by decide

/-! ### Encoding: E1 to E7 -/

/-- E1: START with nothing loaded is LenShort. -/
theorem test_start_empty : (ran .wrCtrlStart State.reset).map (fun t => (t.errcode, t.busy, t.accerr)) = some (1, false, false) := by
  decide

/-- E3. -/
theorem test_start_full : (ran .wrCtrlStart (loaded [])).map (fun t => (t.busy, t.errcode)) = some (true, 0) := by decide

/-- E5: AccErr only; the first code is kept. -/
theorem test_start_failed : (ran .wrCtrlStart failed).map (fun t => (t.errcode, t.accerr, t.busy)) = some (1, true, false) := by
  decide

/-- E7. -/
theorem test_csum_while_busy : (ran .rdCsum pending).map (fun t => (t.rdata, t.accerr)) = some (0, true) := by decide

/-- R128 and P1: the checksum of V1. -/
theorem test_csum_v1 : (ran .rdCsum doneV1).map (fun t => (t.rdata, t.accerr)) = some (0x66, false) := by decide

/-- R129 with IDX[23] = 0x7AF. -/
theorem test_idx_hi : (ran (.rdIdxHi 23) { doneV1 with idx := Vector.replicate 24 0x7AF }).map (·.rdata) = some 0x07 := by decide

/-- R130 with IDX[23] = 0x7AF. -/
theorem test_idx_lo : (ran (.rdIdxLo 23) { doneV1 with idx := Vector.replicate 24 0x7AF }).map (·.rdata) = some 0xAF := by decide

/-! ### Lookup port, with the fixture TOYLIST where a word is needed: W1 to W5 -/

/-- A lowercase hexadecimal digit. -/
def hexDigit (n : Nat) : Byte := BitVec.ofNat 8 (if n < 10 then 0x30 + n else 0x57 + n)

/-- TOYLIST: entry k is the 3-character hexadecimal spelling of k. -/
def toyWord (k : Index) : List Byte :=
  [hexDigit (k.toNat / 256), hexDigit (k.toNat / 16 % 16), hexDigit (k.toNat % 16)]

/-- W2, W4: "066", padded. -/
theorem test_word_bytes :
    (List.range 4).map (paddedByte (toyWord 0x066)) = [0x30, 0x36, 0x36, 0x00] ∧ paddedByte (toyWord 2047) 15 = 0 := by decide

/-- R150: what a word may not be. -/
theorem test_word_constraint :
    wordOk [] = false ∧ wordOk [0x61, 0x00] = false ∧ wordOk [0x61, 0x20] = false ∧ wordOk [0x0A] = false ∧
      wordOk (List.replicate 9 0x61) = false ∧ wordOk (List.replicate 8 0x61) = true := by decide

/-- R150: the allowed bytes around each gap. -/
theorem test_char_gaps :
    charByte 0 = 0x01 ∧ charByte 8 = 0x09 ∧ charByte 9 = 0x0B ∧ charByte 29 = 0x1F ∧ charByte 30 = 0x21 ∧
      charByte 252 = 0xFF := by decide

/-- R150: an asset of two lines is too short. -/
theorem test_short_asset : buildRom [0x61, 0x0A, 0x62] = .error .tooFewLines := by decide

/-- W3: D[7:3] ignored, both halves set. -/
theorem test_wsel_top :
    ((ran (decode 0x146FF) State.reset).bind (ran (decode 0x147FF))).map (·.wsel) = some 2047 := by decide

/-- W5: the other half is kept. -/
theorem test_wsel_mixed : (ran (decode 0x14605) { State.reset with wsel := 0x066 }).map (·.wsel) = some 0x566 := by decide

/-- R155, R156 on WSEL = 0x566. -/
theorem test_wsel_read :
    (ran .rdWselHi { State.reset with wsel := 0x566 }).map (·.rdata) = some 0x05 ∧
      (ran .rdWselLo { State.reset with wsel := 0x566 }).map (·.rdata) = some 0x66 := by decide

/-! ### Phrase stream: H1, H2, H5, H6 -/

/-- H2, R170: V1 under TOYLIST: 96 bytes, "000 " first, "066" and the newline last. -/
theorem test_phrase_v1 :
    (phraseOf toyWord doneV1.idx).length = 96 ∧ (phraseOf toyWord doneV1.idx).take 4 = [0x30, 0x30, 0x30, 0x20] ∧
      (phraseOf toyWord doneV1.idx).drop 92 = [0x30, 0x36, 0x36, 0x0A] := by decide +kernel

/-- H6: V4 under TOYLIST, the first two words. -/
theorem test_phrase_v4 :
    (phraseOf toyWord (lanes ((bufferOf (List.replicate 32 0x80)).set 32 0xbd))).take 8 =
      [0x34, 0x30, 0x34, 0x20, 0x30, 0x32, 0x30, 0x20] := by decide +kernel

/-- H5. -/
theorem test_phrase_before_done : (ran .rdPhrData pending).map (fun t => (t.rdata, t.accerr, t.ptr)) = some (0, true, 0) := by decide

/-- K5. -/
theorem test_rewind : (ran .wrCtrlPrw { doneV1 with ptr := 5 }).map (fun t => (t.ptr, t.done)) = some (0, true) := by decide

/-! ### Control, status and illegal accesses: K1, K8, K10, K11, K13, E4, E5 -/

/-- E4, E5: the flags' places. -/
theorem test_status_bits :
    ({ pending with accerr := true } : State).status = 0x09 ∧ ({ failed with accerr := true } : State).status = 0x0C := by decide

/-- R193, P2: STATUS after LenShort. -/
theorem test_status_read : (ran .rdStatus failed).map (·.rdata) = some 0x04 := by decide

/-- R194. -/
theorem test_errcode_read : (ran .rdErrcode failed).map (·.rdata) = some 0x01 := by decide

/-- K1. -/
theorem test_clear : (ran .wrCtrlClear failed).map (fun t => (t.errcode, t.entCnt, t.status)) = some (0, 0, 0) := by decide

/-- K7, B7: no ACCERR. -/
theorem test_write_only_reads :
    (ran .rdCtrl pending).map (fun t => (t.rdata, t.accerr)) = some (0, false) ∧
      (ran .rdEntIn pending).map (fun t => (t.rdata, t.accerr)) = some (0, false) := by decide

/-- K6. -/
theorem test_nop : ran (decode 0x140F8) pending = some pending := by decide

/-- K8. -/
theorem test_reserved_read : (ran (decode 0x02100) State.reset).map (fun t => (t.rdata, t.status)) = some (0, 0x08) := by decide

/-- K11: the checksum is not written. -/
theorem test_illegal_write : (ran (decode 0x12000) doneV1).map (fun t => (t.mb[32], t.accerr)) = some (0x66, true) := by decide

/-! ### Steps: the first transaction after reset, reset, and the shared cycle -/

/-- B1, as the first transaction after reset. -/
theorem test_first_step :
    (stepped (State.reset.withFetchWord 24 0x144AB)).map (fun t => (t.mb[0], t.entCnt, t.inputs)) = some (0xAB, 1, []) := by decide

/-- R-1, R-2: an edge with rst = 1 resets a busy block and drops the push on the pins. -/
theorem test_reset_drops_push :
    stepped { pending with wsel := 5, errcode := 2, inputs := [resets 0x14411] } = some State.reset := by decide

/-- R-3: a reserved read under reset returns 0x00 and sets nothing. -/
theorem test_reset_drops_read : stepped { State.reset with inputs := [resets 0x02100] } = some State.reset := by decide

/-- E8: a CLEAR in the cycle the engine would complete: no completion. -/
theorem test_clear_cancels : stepped { pending with inputs := [issues 0x14002 true] } = some State.reset := by decide

/-- D20: a STATUS read in the cycle the engine completes still shows BUSY = 1, and the completion follows. -/
theorem test_status_in_completing_cycle :
    (stepped { pending with inputs := [issues 0x04100 true] }).map (fun t => (t.rdata, t.busy, t.done, t.mb[32])) =
      some (0x01, false, true, 0x66) := by decide +kernel

/-- R260: ENC_LATENCY ≥ 1: no completion at the edge that accepts START. -/
theorem test_no_completion_with_start :
    (stepped { loaded [] with inputs := [issues 0x14001 true] }).map (fun t => (t.busy, t.done)) = some (true, false) := by decide

/-! ### Witnesses: for every statement with hypotheses, values that meet them, clause by clause -/

/-- The operation answers a next state. -/
abbrev Runs (i : Instr) (s : State) : Prop := ∃ t, exec i s = .next t

/-- The cycle answers a next state. -/
abbrev Steps (s : State) : Prop := ∃ t, step s = .next t

theorem failed_inv : failed.Inv where
  count := by decide
  done_excludes := by decide
  busy_excludes := by decide
  ptr_done := by decide
  ptr_le := Nat.zero_le _
  unpushed := by decide
  results := by decide
  errcode_range := by decide

theorem pending_inv : pending.Inv where
  count := by decide
  done_excludes := by decide
  busy_excludes := by decide
  ptr_done := by decide
  ptr_le := Nat.zero_le _
  unpushed := by decide
  results := by decide
  errcode_range := by decide

theorem doneV1_inv : doneV1.Inv where
  count := by decide
  done_excludes := by decide
  busy_excludes := by decide
  ptr_done := by decide
  ptr_le := Nat.zero_le _
  unpushed := by decide
  results := fun _ => ⟨by decide +kernel, by decide +kernel⟩
  errcode_range := by decide

/-- V1 done, the whole phrase read. -/
def readOut : State := { doneV1 with ptr := BitVec.ofNat 9 doneV1.plen }

theorem readOut_ptr : readOut.ptr.toNat = readOut.plen := by
  have h : doneV1.plen < 511 := plen_lt doneV1
  have h' : readOut.plen = doneV1.plen := rfl
  rw [h', readOut, BitVec.toNat_ofNat]
  omega

theorem plen_pos (s : State) : 24 ≤ s.plen := by
  rw [State.plen, State.phrase, length_phraseOf]
  omega

/-- A hit, and the two kinds of miss. -/
theorem witness_DecodeTakesTheOneRowHit :
    (∃ r ∈ opcodeMap, r.hits 0x1445A = true) ∧ ((∀ r ∈ opcodeMap, r.hits 0x02100 = false) ∧ fieldW 0x02100 = false) ∧
      (∀ r ∈ opcodeMap, r.hits 0x12000 = false) ∧ fieldW 0x12000 = true := by decide

/-- R83: the ends of the address ranges of both catch-all rows. -/
theorem witness_CatchAllRowsByAddress :
    (∀ a ∈ [0x21#8, 0x3F#8, 0x49#8, 0x4F#8, 0x60#8, 0x7F#8, 0xB0#8, 0xFF#8], decode (tword false a 0) = .rdRsvd a) ∧
      (∀ a ∈ [0x20#8, 0x40#8, 0x48#8, 0x50#8, 0x5F#8, 0x80#8, 0xAF#8], decode (tword false a 0) ≠ .rdRsvd a) ∧
        (∀ a ∈ [0x00#8, 0x3F#8, 0x41#8, 0x43#8, 0x45#8, 0x48#8, 0xFF#8], decode (tword true a 1) = .wrIllegal a 1) ∧
          ∀ a ∈ [0x40#8, 0x44#8, 0x46#8, 0x47#8], decode (tword true a 1) ≠ .wrIllegal a 1 := by decide

/-- Well-formed operations at the ends of their operands. -/
theorem witness_DecodeOfEncodeIsIdentity :
    ∀ i ∈ [Instr.rdMb 31, .rdWchr 15, .rdIdxHi 23, .rdIdxLo 23, .rdRsvd 0x21, .rdRsvd 0xFF, .wrEntIn 0xFF, .wrWselHi 7,
      .wrWselLo 0xFF, .wrIllegal 0x00 0xFF, .wrIllegal 0x45 0, .wrIllegal 0xFF 0xFF], i.wf = true := by decide

theorem witness_IgnoredBitsDoNotChangeTheOperation :
    ((0x40#8 = 0x40 ∨ 0x40#8 = 0x46) ∧ (0xFD : Byte).extractLsb' 0 3 = (0x05 : Byte).extractLsb' 0 3) ∧
      (0x46#8 = 0x40 ∨ 0x46#8 = 0x46) ∧ (0xF8 : Byte).extractLsb' 0 3 = (0x00 : Byte).extractLsb' 0 3 := by decide

/-- With and without a completion chosen. -/
theorem witness_StepRunsTheDecodedOperation :
    (({ pending with inputs := [issues 0x04100 true, idles true] } : State).inputs = issues 0x04100 true :: [idles true] ∧
      (issues 0x04100 true).Issues .rdStatus) ∧
    (issues 0x14001 false).Issues .wrCtrlStart ∧ (issues 0x14001 false).fire = false := by decide

/-- A busy block whose engine is not due, and an idle one whose cycle says it is. -/
theorem witness_IdleCycleKeepsEveryElement :
    (let s : State := { pending with inputs := [idles false] };
      s.nextCycle.rst = false ∧ s.nextCycle.sel = false ∧ (s.nextCycle.fire = true → s.busy = false)) ∧
    (let s : State := { doneV1 with inputs := [idles true] };
      s.nextCycle.rst = false ∧ s.nextCycle.sel = false ∧ (s.nextCycle.fire = true → s.busy = false)) := by decide

theorem witness_ResetEdgeGivesResetValues :
    ({ pending with inputs := [resets 0x14411] } : State).inputs = resets 0x14411 :: [] ∧ (resets 0x14411).rst = true := by
  decide

/-- A CLEAR, and a STATUS read, in the completing cycle. -/
theorem witness_TransactionComesBeforeCompletion :
    (let s : State := { pending with inputs := [issues 0x14002 true] };
      s.busy = true ∧ s.nextCycle.fire = true ∧ s.nextCycle.Issues .wrCtrlClear) ∧
    (let s : State := { pending with inputs := [issues 0x04100 true] };
      s.busy = true ∧ s.nextCycle.fire = true ∧ s.nextCycle.Issues .rdStatus ∧ Instr.rdStatus ≠ .wrCtrlClear) := by decide

/-- Enabled, and not enabled. -/
theorem witness_CompletionStoresChecksumAndIndices :
    (let s : State := { pending with inputs := [idles true] };
      s.nextCycle.rst = false ∧ s.nextCycle.sel = false ∧ s.nextCycle.fire = true ∧ s.busy = true) ∧
    (let s : State := { failed with inputs := [idles true] };
      s.nextCycle.rst = false ∧ s.nextCycle.sel = false ∧ s.nextCycle.fire = true ∧ s.busy = false) ∧
    (23 < 24 ∧ 10 < 11) := by decide

theorem witness_BusyEngineCompletesWhenInputsEnd : pending.inputs = [] ∧ pending.busy = true := by decide

theorem witness_StepKeepsTheInvariants :
    (failed.Inv ∧ Steps failed) ∧ (pending.Inv ∧ Steps pending) ∧ doneV1.Inv ∧ Steps doneV1 :=
  ⟨⟨failed_inv, _, rfl⟩, ⟨pending_inv, _, rfl⟩, doneV1_inv, _, rfl⟩

/-- Ten bytes loaded: MB[10] is the first that holds 0x00. -/
theorem witness_RdMbReturnsTheBufferByte :
    failed.Inv ∧ failed.entCnt.toNat ≤ (10 : Fin 32).val ∧ failed.entCnt.toNat ≤ (31 : Fin 32).val :=
  ⟨failed_inv, by decide⟩

/-- Refused by BUSY and by an error; the first and the last byte accepted; one too many. -/
theorem witness_WrEntInPushesOrRaises :
    (pending.busy = true ∨ pending.errcode ≠ 0) ∧ (failed.busy = true ∨ failed.errcode ≠ 0) ∧
      (State.reset.busy = false ∧ State.reset.errcode = 0 ∧ State.reset.entCnt.toNat < 32) ∧
        (let s : State := { State.reset with entCnt := 31 };
          s.busy = false ∧ s.errcode = 0 ∧ s.entCnt.toNat < 32 ∧ 31 < 33 ∧ 31 = s.entCnt.toNat ∧ 32 ≠ s.entCnt.toNat) ∧
          (loaded []).busy = false ∧ (loaded []).errcode = 0 ∧ 32 ≤ (loaded []).entCnt.toNat := by decide

/-- No byte, and 32 bytes. -/
theorem witness_PushesFillTheBufferInOrder :
    ([] : List Byte).length ≤ 32 ∧ (List.replicate 32 (0xAB : Byte)).length ≤ 32 ∧ State.reset.busy = false ∧
      State.reset.errcode = 0 ∧ State.reset.entCnt = 0 ∧ (List.replicate 32 (0xAB : Byte)).length = 32 := by decide

/-- The command bits; refused by BUSY and by an error; 31 bytes; 32 bytes. -/
theorem witness_WrCtrlStartBeginsOrRaises :
    ((0x05 : Byte).getLsbD 1 = false ∧ (0x05 : Byte).getLsbD 0 = true) ∧ (pending.busy = true ∨ pending.errcode ≠ 0) ∧
      (failed.busy = true ∨ failed.errcode ≠ 0) ∧
        (let s : State := { State.reset with entCnt := 31 };
          s.busy = false ∧ s.errcode = 0 ∧ s.entCnt.toNat < 32) ∧
          (loaded []).busy = false ∧ (loaded []).errcode = 0 ∧ 32 ≤ (loaded []).entCnt.toNat := by decide

theorem witness_WrCtrlStartBeginsOrRaises_again : doneV1.Inv ∧ doneV1.done = true := ⟨doneV1_inv, rfl⟩

theorem witness_RdCsumIsGatedByDone : doneV1.done = true ∧ pending.done = false := by decide

theorem witness_RdIdxPairIsGatedByDone : doneV1.done = true ∧ failed.done = false := by decide

/-- The first and the last single bit, and the whole of a 33-byte buffer. -/
theorem witness_ExtractIsBigEndianWindow :
    ((0 < 1 ∧ 1 ≤ 8 * 33) ∧ 0 ≤ 0 ∧ 0 < 1) ∧ ((263 < 264 ∧ 264 ≤ 8 * 33) ∧ 263 ≤ 263 ∧ 263 < 264) ∧
      (0 < 264 ∧ 264 ≤ 8 * 33) ∧ 0 ≤ 263 ∧ 263 < 264 := by decide

/-- Position 263 feeds lane 23 and does not feed lane 22. -/
theorem witness_EachBufferBitFeedsOneLane : 263 < 264 ∧ (22 : Fin 24).val ≠ 263 / 11 ∧ ¬ (23 : Fin 24).val ≠ 263 / 11 := by
  decide

theorem witness_ChecksumReachesOnlyTheLastLane : (22 : Fin 24) ≠ 23 ∧ (0 : Fin 24) ≠ 23 := by decide

/-- Two states with the same entropy and different checksum bytes; the ends of the ranges. -/
theorem witness_EncodingIsDeterministicAndSensitive :
    (∀ (j : Nat) (h : j < 32), doneV1.mb[j] = pending.mb[j]) ∧ doneV1.mb[32] ≠ pending.mb[32] ∧ 23 < 24 ∧ 0 < 256 ∧
      255 < 256 := by decide

/-- START at once followed by the completion, and START with a refused push and a reserved read between. -/
theorem witness_EveryInterleavingEncodesTheEntropyOfStart :
    (let s : State := { loaded [1, 2, 3] with inputs := issues 0x14001 false :: ([] ++ idles true :: [idles true]) };
      s.busy = false ∧ s.errcode = 0 ∧ 32 ≤ s.entCnt.toNat ∧
        s.inputs = issues 0x14001 false :: ([] ++ idles true :: [idles true]) ∧
          (issues 0x14001 false).Issues .wrCtrlStart ∧ (idles true).Keeps ∧ (idles true).fire = true) ∧
    (issues 0x14001 true).Issues .wrCtrlStart ∧
      (∀ c ∈ [issues 0x14455 false, issues 0x02100 false, idles false], c.Keeps ∧ c.fire = false) ∧
        (issues 0x04100 true).Keeps ∧ (issues 0x04100 true).fire = true := by decide

theorem witness_EntropyIsFixedWhileBusy :
    (let s : State := { pending with inputs := [issues 0x14455 true] };
      s.busy = true ∧ s.nextCycle.Keeps) ∧ Steps { pending with inputs := [issues 0x14455 true] } :=
  ⟨by decide, _, rfl⟩

/-- A START (no push, no completion), in a block that is not busy. -/
theorem witness_RegisterFilesHaveOneWriter :
    (let s : State := { loaded [] with inputs := [issues 0x14001 true] };
      s.nextCycle.Keeps ∧ ¬ (s.busy = true ∧ s.nextCycle.fire = true)) ∧
    (∀ d, ¬ ({ loaded [] with inputs := [issues 0x14001 true] } : State).nextCycle.Issues (.wrEntIn d)) ∧
      Steps { loaded [] with inputs := [issues 0x14001 true] } :=
  ⟨by decide, by decide, _, rfl⟩

theorem witness_UnfinishedResultsAreUnobservable :
    pending.done = false ∧
      ∃ s' t', Host.Core.run core 1 { pending with inputs := [issues 0x02000 false] } = .next s' ∧
        Host.Core.run core 1
          { pending with
            inputs := [issues 0x02000 false], mb := pending.mb.set 32 0xFF, idx := Vector.replicate 24 5 } = .next t' :=
  ⟨rfl, _, _, rfl, rfl⟩

theorem witness_ResultsStayUntilStartPushOrClear :
    (let s : State := { doneV1 with inputs := [issues 0x04500 true] };
      s.done = true ∧ s.nextCycle.Keeps ∧ ¬ s.nextCycle.Issues .wrCtrlStart ∧ ∀ d, ¬ s.nextCycle.Issues (.wrEntIn d)) ∧
    doneV1.Inv ∧ doneV1.nextCycle.Keeps ∧ ¬ doneV1.nextCycle.Issues .wrCtrlStart ∧
      (∀ d, ¬ doneV1.nextCycle.Issues (.wrEntIn d)) ∧ Steps doneV1 :=
  ⟨by decide, doneV1_inv, by decide, by decide, by decide, _, rfl⟩

/-- A byte of an entry, and an asset too short by all its lines but two. -/
theorem witness_RomIsBuiltFromTheFirstLines :
    (splitLines [0x61, 0x0A, 0x62]).length < 2048 ∧ [0x61] ∈ splitLines [0x61, 0x0A, 0x62] := by decide

theorem splitLines_blank (n : Nat) : splitLines (List.replicate n 0x0A) = List.replicate (n + 1) [] := by
  induction n with
  | zero => rfl
  | succ n ih => rw [List.replicate_succ, splitLines, ih]; rfl

/-- 2048 lines are enough lines (R150); here they are empty ones, so the entries are refused. -/
theorem witness_RomIsBuiltFromTheFirstLines_refused :
    2048 ≤ (splitLines (List.replicate 2047 0x0A)).length ∧
      buildRom (List.replicate 2047 0x0A) = .error .badEntry := by
  have hl : (splitLines (List.replicate 2047 0x0A)).length = 2048 := by
    rw [splitLines_blank, List.length_replicate]
  refine ⟨Nat.le_of_eq hl.symm, ?_⟩
  have ht : (splitLines (List.replicate 2047 0x0A)).take 2048 = [] :: List.replicate 2047 [] := by
    rw [List.take_of_length_le (Nat.le_of_eq hl), splitLines_blank, List.replicate_succ]
  rw [buildRom, romOfLines, hl, if_neg (Nat.lt_irrefl 2048), ht, List.all_cons]
  rfl

theorem splitLines_letters (n : Nat) :
    splitLines (List.replicate n [0x61, 0x0A]).flatten = List.replicate n [0x61] ++ [[]] := by
  induction n with
  | zero => rfl
  | succ n ih =>
    rw [List.replicate_succ, List.flatten_cons, List.cons_append, List.cons_append, List.nil_append, splitLines, splitLines,
      ih]
    rfl

/-- An asset of 2048 lines "a", each ended by 0x0A, is taken (R150). -/
theorem witness_RomIsBuiltFromTheFirstLines_taken :
    buildRom (List.replicate 2048 [0x61, 0x0A]).flatten = .ok (List.replicate 2048 [0x61]) := by
  have ht : (List.replicate 2048 [(0x61 : Byte)] ++ [[]]).take 2048 = List.replicate 2048 [0x61] := by
    rw [List.take_append_of_le_length (Nat.le_of_eq List.length_replicate.symm), List.take_of_length_le
      (Nat.le_of_eq List.length_replicate)]
  rw [buildRom, splitLines_letters, romOfLines, ht, if_neg, if_pos]
  · rw [List.all_eq_true]
    intro w hw
    rw [List.eq_of_mem_replicate hw]
    decide
  · rw [List.length_append, List.length_replicate]
    decide

/-- A lookup read and a lookup write, on two states that differ in all but WSEL. -/
theorem witness_LookupPortIsIndependentOfTheEncoder :
    isLookup (.rdWchr 15) = true ∧ isLookup (.wrWselHi 7) = true ∧ pending.wsel = doneV1.wsel ∧
      (Instr.rdWchr 15).isRead = true := by decide

/-- Position 0 is inside every word, position 15 is past every word. -/
theorem witness_RdWchrReturnsTheWordByte :
    (0 : Fin 16).val < (rom State.reset.wsel).length ∧ Config.wmax ≤ (15 : Fin 16).val ∧ Config.wmax ≤ (8 : Fin 16).val := by
  rw [length_rom]
  exact ⟨Nat.succ_pos _, by decide, by decide⟩

/-- Not done; the first byte; the position just past the last. -/
theorem witness_RdPhrDataReturnsTheNextByte :
    pending.done = false ∧ (doneV1.done = true ∧ doneV1.ptr.toNat < doneV1.phrase.length) ∧ readOut.done = true ∧
      readOut.plen ≤ readOut.ptr.toNat :=
  ⟨rfl, ⟨rfl, Nat.lt_of_lt_of_le (by decide) (plen_pos doneV1)⟩, rfl, Nat.le_of_eq readOut_ptr.symm⟩

theorem witness_WrCtrlPrwRewinds :
    (0x0C : Byte).extractLsb' 0 3 = 4 ∧ (0x04 : Byte).extractLsb' 0 3 = 4 ∧ failed.Inv ∧ failed.done = false :=
  ⟨by decide, by decide, failed_inv, rfl⟩

theorem witness_StreamReadsBackThePhrase : doneV1.done = true ∧ readOut.done = true := ⟨rfl, rfl⟩

theorem witness_RdStatusReturnsTheFlags : failed.Inv ∧ doneV1.Inv ∧ readOut.pend = true :=
  ⟨failed_inv, doneV1_inv, by simp only [State.pend, readOut_ptr]; simp [readOut, doneV1]⟩

/-- A STATUS read in the cycle in which the engine completes. -/
theorem witness_RdStatusReturnsTheFlags_completing :
    ({ pending with inputs := [issues 0x04100 true] } : State).nextCycle.Issues .rdStatus ∧
      Steps { pending with inputs := [issues 0x04100 true] } :=
  ⟨by decide, _, rfl⟩

theorem witness_RdErrcodeReturnsTheCode : failed.Inv ∧ doneV1.Inv := ⟨failed_inv, doneV1_inv⟩

theorem witness_WrCtrlClearGivesResetValues :
    (0x02 : Byte).getLsbD 1 = true ∧ (0xFF : Byte).getLsbD 1 = true ∧ Runs .wrCtrlClear failed ∧ 32 < 33 ∧ 23 < 24 :=
  ⟨by decide, by decide, ⟨_, rfl⟩, by decide, by decide⟩

/-- A CLEAR in the cycle in which the engine would complete. -/
theorem witness_WrCtrlClearGivesResetValues_completing :
    ({ pending with inputs := [issues 0x14002 true] } : State).nextCycle.Issues .wrCtrlClear := by decide

theorem witness_WrCtrlNopChangesNothing : (0x00 : Byte).extractLsb' 0 3 = 0 ∧ (0xF8 : Byte).extractLsb' 0 3 = 0 := by decide

theorem witness_IllegalAccessOnlySetsAccErr :
    (reservedAddr 0x21 = true ∧ reservedAddr 0xFF = true) ∧
      ∀ a ∈ [0x00#8, 0x3F#8, 0x45#8, 0x48#8, 0xFF#8], a ≠ 0x40 ∧ a ≠ 0x44 ∧ a ≠ 0x46 ∧ a ≠ 0x47 := by decide

theorem witness_AccErrIsRaisedExactlyAsListed :
    (Runs .wrCtrlClear failed ∧ Instr.wrCtrlClear = .wrCtrlClear) ∧ Runs (.wrEntIn 0xFF) pending ∧
      Instr.wrEntIn 0xFF ≠ .wrCtrlClear ∧ Runs .rdPhrData failed :=
  ⟨⟨⟨_, rfl⟩, rfl⟩, ⟨_, rfl⟩, by decide, _, rfl⟩

/-- LenShort and LenLong, each at its boundary count. -/
theorem witness_ErrorEventsComeOnlyFromTheirCauses :
    (∃ t, exec .wrCtrlStart { State.reset with entCnt := 31 } = .next t ∧ Instr.wrCtrlStart ≠ .wrCtrlClear ∧
      t.errcode ≠ ({ State.reset with entCnt := 31 } : State).errcode) ∧
    ∃ t, exec (.wrEntIn 0) (loaded []) = .next t ∧ Instr.wrEntIn 0 ≠ .wrCtrlClear ∧ t.errcode ≠ (loaded []).errcode :=
  ⟨⟨_, rfl, by decide, by decide⟩, _, rfl, by decide, by decide⟩

theorem witness_ErrorStateIsLeftOnlyByClearOrReset :
    failed.Inv ∧ failed.errcode ≠ 0 ∧ failed.nextCycle.Keeps ∧ Steps failed :=
  ⟨failed_inv, by decide, by decide, _, rfl⟩

theorem witness_AccErrIsClearedOnlyByClearOrReset :
    (let s : State := { failed with accerr := true, inputs := [issues 0x14001 false] };
      s.accerr = true ∧ s.nextCycle.Keeps) ∧ Steps { failed with accerr := true, inputs := [issues 0x14001 false] } :=
  ⟨by decide, _, rfl⟩

/-- Another read; the stream before DONE; the stream past its end. -/
theorem witness_ReadsAreIdempotentButThePhraseStream :
    (Instr.rdCsum.isRead = true ∧ Runs .rdCsum pending ∧ Instr.rdCsum ≠ .rdPhrData) ∧
      (Instr.rdPhrData.isRead = true ∧ Runs .rdPhrData pending ∧ pending.done = false) ∧
        exec .rdPhrData readOut = .next { readOut with rdata := 0x00 } ∧ readOut.plen ≤ readOut.ptr.toNat := by
  refine ⟨⟨rfl, ⟨_, rfl⟩, by decide⟩, ⟨rfl, ⟨_, rfl⟩, rfl⟩, ?_, Nat.le_of_eq readOut_ptr.symm⟩
  have h : readOut.phrase[readOut.ptr.toNat]? = none := by
    rw [List.getElem?_eq_none_iff]
    exact Nat.le_of_eq readOut_ptr.symm
  have hd : readOut.done = true := rfl
  simp only [exec, execRdPhrData, hd, h, if_true]
  rfl

theorem witness_ReadsLeaveTheElementsAlone :
    (Runs .rdCsum pending ∧ Instr.rdCsum.isRead = true ∧ Instr.rdCsum ≠ .rdPhrData) ∧ Runs .wrCtrlStart failed ∧
      Instr.wrCtrlStart.isRead = false :=
  ⟨⟨⟨_, rfl⟩, rfl, by decide⟩, ⟨_, rfl⟩, rfl⟩

/-- The last accepted push, from a count that is in range. -/
theorem witness_EntCntCountsAcceptedPushes :
    (let s : State := { State.reset with entCnt := 31, inputs := [issues 0x14455 false] };
      s.entCnt.toNat ≤ 32 ∧ s.nextCycle.Issues (.wrEntIn 0x55)) ∧
      Steps { State.reset with entCnt := 31, inputs := [issues 0x14455 false] } :=
  ⟨by decide, _, rfl⟩

end Sys2Proof.Tests
end

section
/-! ### A byte string as one big-endian integer, and the extract as its window (R8) -/

namespace Sys2Proof.Machine

theorem bigEndian_push {n : Nat} (data : Vector Byte n) (b : Byte) :
    bigEndian (data.push b) = 2 ^ 8 * bigEndian data + b.toNat := by
  have hterm : ∀ j : Fin n, (data.push b)[j.castSucc.val].toNat * 2 ^ (8 * (n + 1 - 1 - j.castSucc.val)) =
      2 ^ 8 * (data[j.val].toNat * 2 ^ (8 * (n - 1 - j.val))) := by
    intro j
    have hexp : 8 * (n + 1 - 1 - j.val) = 8 + 8 * (n - 1 - j.val) := by omega
    simp only [Fin.val_castSucc, Vector.getElem_push_lt j.isLt, hexp, pow_add]
    ring
  simp only [bigEndian, List.finRange_succ_last, List.map_append, List.map_map, Function.comp_def, List.sum_append, hterm,
    List.sum_map_mul_left]
  simp

theorem bufBit_push_lt {n : Nat} (data : Vector Byte n) (b : Byte) (p : Nat) (h : p < 8 * n) :
    bufBit (data.push b) p (by omega) = bufBit data p h := by
  simp only [bufBit, Vector.getElem_push_lt (show p / 8 < n by omega)]

/-- The bits of the last byte, counted from its least significant. -/
theorem bufBit_push_last {n : Nat} (data : Vector Byte n) (b : Byte) (j : Nat) (h : j < 8) :
    bufBit (data.push b) (8 * (n + 1) - 1 - j) (by omega) = b.getLsbD j := by
  have hbyte : (8 * (n + 1) - 1 - j) / 8 = n := by omega
  have hbit : 7 - (8 * (n + 1) - 1 - j) % 8 = j := by omega
  simp only [bufBit, hbyte, hbit, Vector.getElem_push_eq]

/-- Bit j of the big-endian integer is the buffer bit j places before the last position (R7, R8). -/
theorem testBit_bigEndian {n : Nat} (data : Vector Byte n) (j : Nat) (h : j < 8 * n) :
    (bigEndian data).testBit j = bufBit data (8 * n - 1 - j) (by omega) := by
  induction n generalizing j with
  | zero => omega
  | succ n ih =>
    obtain ⟨init, b, rfl⟩ : ∃ (init : Vector Byte n) (b : Byte), data = init.push b :=
      ⟨data.pop, data.back, (Vector.push_pop_back data).symm⟩
    rw [bigEndian_push, Nat.testBit_two_pow_mul_add _ b.isLt]
    split
    case isTrue hj => rw [bufBit_push_last init b j hj, BitVec.testBit_toNat]
    case isFalse hj =>
      have hpos : 8 * (n + 1) - 1 - j = 8 * n - 1 - (j - 8) := by omega
      simp only [hpos]
      rw [ih init (j - 8) (by omega), bufBit_push_lt]

theorem extract_eq_bigEndian_window {n : Nat} (data : Vector Byte n) (low high : Nat) (h : low < high ∧ high ≤ 8 * n) :
    extract data low high h = (bigEndian data >>> (8 * n - high)) % 2 ^ (high - low) := by
  apply Nat.eq_of_testBit_eq
  intro j
  rw [Nat.testBit_mod_two_pow, Nat.testBit_shiftRight]
  by_cases hj : j < high - low
  case pos =>
    have hpos : 8 * n - 1 - (8 * n - high + j) = high - 1 - j := by omega
    rw [testBit_extract data low high h j hj, testBit_bigEndian data _ (by omega)]
    simp [hj, hpos]
  case neg =>
    have hbound : extract data low high h < 2 ^ j :=
      (extract_lt data low high h).trans_le (Nat.pow_le_pow_right (by decide) (by omega))
    simp [hj, Nat.testBit_lt_two_pow hbound]

/-- Settles O26: bit by bit, an extract and the window of the big-endian integer are the same buffer bits. -/
theorem extractIsBigEndianWindow : Obligations.ExtractIsBigEndianWindow := by
  intro n data low high h
  refine ⟨fun p hp => ?_, extract_eq_bigEndian_window data low high h⟩
  have hpos : high - 1 - (high - 1 - p) = p := by omega
  rw [testBit_extract data low high h (high - 1 - p) (by omega)]
  simp only [hpos]

end Sys2Proof.Machine
end

section
/-! ### What an operation and a cycle can do, and what they keep: the invariants of R39, the register files, ACCERR -/

namespace Sys2Proof.Machine

/-! #### The effect of an operation -/

/-- What an operation can do to the state: one constructor per kind of effect, with the condition it falls under. -/
inductive Effect (s : State) : Instr → State → Prop where
  /-- A read that returns its byte and changes nothing. -/
  | drive {i : Instr} (b : Byte) : i.isRead = true → raisesAccErr s i = false → Effect s i (s.drive b)
  /-- A read refused by AccErr (R227). -/
  | refuseRead {i : Instr} : i.isRead = true → raisesAccErr s i = true → Effect s i (s.flagAccErr.drive 0x00)
  /-- A write refused by AccErr (R227). -/
  | refuseWrite {i : Instr} : i.isRead = false → raisesAccErr s i = true → Effect s i s.flagAccErr
  /-- The next phrase byte (R172). -/
  | advance (b : Byte) : s.done = true → s.ptr.toNat < s.plen → Effect s .rdPhrData (s.advancePtr.drive b)
  /-- R190. -/
  | clear : Effect s .wrCtrlClear s.clearElements
  /-- R191. -/
  | nop : Effect s .wrCtrlNop s
  /-- R173. -/
  | rewind : Effect s .wrCtrlPrw s.rewindPtr
  /-- R153. -/
  | selectHigh (d : BitVec 3) : Effect s (.wrWselHi d) (s.setWsel (withHigh s.wsel d))
  /-- R154. -/
  | selectLow (d : Byte) : Effect s (.wrWselLo d) (s.setWsel (withLow s.wsel d))
  /-- An accepted push (R102). -/
  | push (d : Byte) : s.busy = false → s.errcode = 0 → s.entCnt.toNat < 32 → Effect s (.wrEntIn d) (s.pushByte d)
  /-- LenLong (R102, R222). -/
  | tooLong (d : Byte) : s.busy = false → s.errcode = 0 → 32 ≤ s.entCnt.toNat →
      Effect s (.wrEntIn d) (s.raiseLen lenLong)
  /-- LenShort (R121, R222). -/
  | tooShort : s.busy = false → s.errcode = 0 → s.entCnt.toNat < 32 → Effect s .wrCtrlStart (s.raiseLen lenShort)
  /-- An accepted START (R121). -/
  | start : s.busy = false → s.errcode = 0 → 32 ≤ s.entCnt.toNat → Effect s .wrCtrlStart s.beginEncode

theorem effect_gatedRead {i : Instr} {s : State} (f : State → Byte) (hread : i.isRead = true)
    (hraise : raisesAccErr s i = !s.done) : Effect s i (gatedRead f s) := by
  cases hd : s.done with
  | true =>
    rw [gatedRead_of_done f hd]
    exact .drive _ hread (by simp [hraise, hd])
  | false =>
    rw [gatedRead_of_not_done f hd]
    exact .refuseRead hread (by simp [hraise, hd])

theorem execRdPhrData_effect (s : State) : ∃ t, execRdPhrData s = .next t ∧ Effect s .rdPhrData t := by
  cases hd : s.done with
  | false => exact ⟨_, by simp [execRdPhrData, hd], .refuseRead rfl (by simp [raisesAccErr, hd])⟩
  | true =>
    cases hb : s.phrase[s.ptr.toNat]? with
    | some b =>
      obtain ⟨hlt, -⟩ := List.getElem?_eq_some_iff.mp hb
      exact ⟨_, by simp [execRdPhrData, hd, hb], .advance b hd hlt⟩
    | none => exact ⟨_, by simp [execRdPhrData, hd, hb], .drive 0x00 rfl (by simp [raisesAccErr, hd])⟩

theorem execWrEntIn_effect (d : Byte) (s : State) : ∃ t, execWrEntIn d s = .next t ∧ Effect s (.wrEntIn d) t := by
  cases hr : s.refusesLoad with
  | true => exact ⟨_, by simp [execWrEntIn, hr], .refuseWrite rfl hr⟩
  | false =>
    obtain ⟨hbusy, herr⟩ := (refusesLoad_eq_false_iff s).mp hr
    by_cases hcount : s.entCnt.toNat < 32
    · exact ⟨_, by simp [execWrEntIn, hr, hcount], .push d hbusy herr hcount⟩
    · exact ⟨_, by simp [execWrEntIn, hr, hcount], .tooLong d hbusy herr (by omega)⟩

theorem execWrCtrlStart_effect (s : State) : ∃ t, execWrCtrlStart s = .next t ∧ Effect s .wrCtrlStart t := by
  cases hr : s.refusesLoad with
  | true => exact ⟨_, by simp [execWrCtrlStart, hr], .refuseWrite rfl hr⟩
  | false =>
    obtain ⟨hbusy, herr⟩ := (refusesLoad_eq_false_iff s).mp hr
    by_cases hcount : s.entCnt.toNat < 32
    · exact ⟨_, by simp [execWrCtrlStart, hr, hcount], .tooShort hbusy herr hcount⟩
    · exact ⟨_, by simp [execWrCtrlStart, hr, hcount], .start hbusy herr (by omega)⟩

/-- Every operation answers a next state, by one of the effects. -/
theorem exec_effect (i : Instr) (s : State) : ∃ t, exec i s = .next t ∧ Effect s i t := by
  cases i with
  | rdMb _ | rdCtrl | rdStatus | rdErrcode | rdEntCnt | rdEntIn | rdWselHi | rdWselLo | rdWlen | rdWchr _ =>
    exact ⟨_, rfl, .drive _ rfl rfl⟩
  | rdCsum | rdIdxHi _ | rdIdxLo _ => exact ⟨_, rfl, effect_gatedRead _ rfl rfl⟩
  | rdPhrData => exact execRdPhrData_effect s
  | rdRsvd _ => exact ⟨_, rfl, .refuseRead rfl rfl⟩
  | wrCtrlClear => exact ⟨_, rfl, .clear⟩
  | wrCtrlStart => exact execWrCtrlStart_effect s
  | wrCtrlPrw => exact ⟨_, rfl, .rewind⟩
  | wrCtrlNop => exact ⟨_, rfl, .nop⟩
  | wrEntIn d => exact execWrEntIn_effect d s
  | wrWselHi d => exact ⟨_, rfl, .selectHigh d⟩
  | wrWselLo d => exact ⟨_, rfl, .selectLow d⟩
  | wrIllegal _ _ => exact ⟨_, rfl, .refuseWrite rfl rfl⟩

theorem effect_of_exec {i : Instr} {s t : State} (h : exec i s = .next t) : Effect s i t := by
  obtain ⟨u, hu, heffect⟩ := exec_effect i s
  cases hu.symm.trans h
  exact heffect

/-! #### The effect of a cycle -/

/-- The host's part of a cycle with rst = 0 acts as operation i: the one it issues, or, where it is idle, NOP (R191). -/
def Cycle.Acts (c : Cycle) (i : Instr) : Prop := c.Issues i ∨ c.rst = false ∧ c.sel = false ∧ i = .wrCtrlNop

theorem Cycle.Acts.issues {c : Cycle} {i : Instr} (h : c.Acts i) (hi : i ≠ .wrCtrlNop) : c.Issues i :=
  h.resolve_right fun ⟨_, _, hnop⟩ => hi hnop

theorem Cycle.Acts.ne_clear {c : Cycle} {i : Instr} (h : c.Acts i) (hk : c.Keeps) : i ≠ .wrCtrlClear := by
  rintro rfl
  exact hk.2 (h.issues (by decide))

/-- A step resets the block, or runs the host's operation and then the engine's edge. -/
theorem step_effect {s t : State} (h : step s = .next t) :
    (s.nextCycle.rst = true ∧ t = s.beginCycle.resetEdge) ∨
      ∃ i u, s.nextCycle.Acts i ∧ Effect s.beginCycle i u ∧ t = engineEdge s.nextCycle.fire s.busy u := by
  obtain hreset | ⟨hrst, hsel, ht⟩ | ⟨hrst, hsel, u, hu, ht⟩ := step_cases h
  · exact .inl hreset
  · exact .inr ⟨_, _, .inr ⟨hrst, hsel, rfl⟩, .nop, ht⟩
  · exact .inr ⟨_, u, .inl ⟨hrst, hsel, rfl⟩, effect_of_exec hu, ht⟩

/-- In a cycle that neither resets nor clears, the host's operation is no CLEAR. -/
theorem step_effect_of_keeps {s t : State} (hk : s.nextCycle.Keeps) (h : step s = .next t) :
    ∃ i u, s.nextCycle.Acts i ∧ i ≠ .wrCtrlClear ∧ Effect s.beginCycle i u ∧
      t = engineEdge s.nextCycle.fire s.busy u := by
  obtain ⟨hrst, -⟩ | ⟨i, u, hacts, heffect, ht⟩ := step_effect h
  · simp [hk.1] at hrst
  · exact ⟨i, u, hacts, hacts.ne_clear hk, heffect, ht⟩

/-! #### The engine's edge -/

theorem encComplete_eq (s : State) :
    encComplete s = s.storeResults (checksum hash s.mb) (lanes (s.mb.set 32 (checksum hash s.mb))) := rfl

@[simp] theorem engineEdge_accerr (fire was : Bool) (s : State) : (engineEdge fire was s).accerr = s.accerr := by
  obtain ⟨-, -, -, h⟩ | ⟨-, h⟩ := engineEdge_cases fire was s
  · rw [h, encComplete_eq, State.storeResults_accerr]
  · rw [h]

/-- The engine does not write the entropy (R22, R127). -/
theorem engineEdge_entropy (fire was : Bool) (s : State) (j : Nat) (h : j < 32) :
    (engineEdge fire was s).mb[j] = s.mb[j] := by
  obtain ⟨-, -, -, hedge⟩ | ⟨-, hedge⟩ := engineEdge_cases fire was s
  · simp only [hedge, encComplete_eq, storeResults_getElem, if_neg (show ¬ 32 = j by omega)]
  · simp only [hedge]

/-! #### The invariants of R39 -/

/-- The invariants do not speak of ACCERR, WSEL, the read data and the inputs. -/
theorem State.Inv.withPorts {s : State} (h : s.Inv) (a : Bool) (w : Index) (r : Byte) (cs : List Cycle) :
    ({ s with accerr := a, wsel := w, rdata := r, inputs := cs } : State).Inv where
  count := h.count
  done_excludes := h.done_excludes
  busy_excludes := h.busy_excludes
  ptr_done := h.ptr_done
  ptr_le := h.ptr_le
  unpushed := h.unpushed
  results := h.results
  errcode_range := h.errcode_range

/-- With BUSY, DONE and PTR at 0, what is left of the invariants is the count, the unpushed bytes and the code. -/
theorem State.inv_of_idle {s : State} (hbusy : s.busy = false) (hdone : s.done = false) (hptr : s.ptr = 0)
    (hcount : s.entCnt.toNat ≤ 32) (hunpushed : ∀ (j : Nat) (h : j < 32), s.entCnt.toNat ≤ j → s.mb[j] = 0)
    (hcode : s.errcode = 0 ∨ s.errcode = lenShort ∨ s.errcode = lenLong) : s.Inv where
  count := hcount
  done_excludes h := by simp [hdone] at h
  busy_excludes h := by simp [hbusy] at h
  ptr_done h := absurd hptr h
  ptr_le := by simp [hptr]
  unpushed := hunpushed
  results h := by simp [hdone] at h
  errcode_range := hcode

theorem State.inv_reset : State.reset.Inv :=
  State.inv_of_idle rfl rfl rfl (by simp) (fun j _ _ => by simp) (.inl rfl)

/-- Only a finished encoding has a nonzero PTR. -/
theorem State.Inv.ptr_eq_zero {s : State} (h : s.Inv) (hdone : s.done = false) : s.ptr = 0 := by
  by_contra hptr
  exact absurd (h.ptr_done hptr) (by simp [hdone])

/-- A stream read adds one to a PTR below PLEN (R172). -/
theorem State.Inv.advancePtr {s : State} (h : s.Inv) (hdone : s.done = true) (hptr : s.ptr.toNat < s.plen) :
    s.advancePtr.Inv where
  count := h.count
  done_excludes := h.done_excludes
  busy_excludes := h.busy_excludes
  ptr_done _ := hdone
  ptr_le := Nat.le_trans (Nat.mod_le _ _) hptr
  unpushed := h.unpushed
  results := h.results
  errcode_range := h.errcode_range

theorem State.Inv.rewindPtr {s : State} (h : s.Inv) : s.rewindPtr.Inv where
  count := h.count
  done_excludes := h.done_excludes
  busy_excludes := h.busy_excludes
  ptr_done hptr := absurd rfl hptr
  ptr_le := Nat.zero_le _
  unpushed := h.unpushed
  results := h.results
  errcode_range := h.errcode_range

/-- A push finds no finished encoding, since ENT_CNT < 32, and fills the first of the bytes that hold 0x00. -/
theorem State.Inv.pushByte {s : State} (h : s.Inv) (d : Byte) (hbusy : s.busy = false) (hcount : s.entCnt.toNat < 32) :
    (s.pushByte d).Inv := by
  have hdone : s.done = false := by
    by_contra hdone
    obtain ⟨hfull, -⟩ := h.done_excludes (by simpa using hdone)
    simp [hfull] at hcount
  have hnext : (s.entCnt + 1).toNat = s.entCnt.toNat + 1 := by bv_omega
  refine State.inv_of_idle hbusy hdone (h.ptr_eq_zero hdone) ?_ (fun j hj hle => ?_) h.errcode_range
  · simp only [State.pushByte_entCnt]
    omega
  · simp only [State.pushByte_entCnt] at hle
    rw [pushByte_getElem, if_neg (by omega)]
    exact h.unpushed j hj (by omega)

theorem State.Inv.raiseLen {s : State} (h : s.Inv) {code : BitVec 2} (hbusy : s.busy = false)
    (hcode : code = lenShort ∨ code = lenLong) : (s.raiseLen code).Inv :=
  State.inv_of_idle hbusy rfl rfl h.count h.unpushed (.inr hcode)

theorem State.Inv.beginEncode {s : State} (h : s.Inv) (herr : s.errcode = 0) (hcount : 32 ≤ s.entCnt.toNat) :
    s.beginEncode.Inv where
  count := h.count
  done_excludes hdone := absurd hdone (by simp)
  busy_excludes _ := ⟨BitVec.eq_of_toNat_eq (Nat.le_antisymm h.count hcount), rfl, herr⟩
  ptr_done hptr := absurd rfl hptr
  ptr_le := Nat.zero_le _
  unpushed := h.unpushed
  results hdone := absurd hdone (by simp)
  errcode_range := h.errcode_range

/-- The completion stores the checksum and the lanes of the buffer it leaves: the checksum byte is no part of the entropy
that is hashed. -/
theorem State.Inv.encComplete {s : State} (h : s.Inv) (hbusy : s.busy = true) : (encComplete s).Inv := by
  obtain ⟨hfull, -, herr⟩ := h.busy_excludes hbusy
  rw [encComplete_eq]
  exact {
    count := h.count
    done_excludes := fun _ => ⟨hfull, rfl, herr⟩
    busy_excludes := fun hb => absurd hb (by simp)
    ptr_done := fun _ => rfl
    ptr_le := Nat.zero_le _
    unpushed := fun j hj hle => by
      rw [storeResults_getElem, if_neg (by omega)]
      exact h.unpushed j hj hle
    results := fun _ => by simp [checksum]
    errcode_range := h.errcode_range }

/-- Every operation keeps the invariants. -/
theorem Effect.inv {i : Instr} {s t : State} (heffect : Effect s i t) (h : s.Inv) : t.Inv := by
  cases heffect with
  | drive b | refuseRead | refuseWrite | selectHigh | selectLow => exact h.withPorts _ _ _ _
  | advance b hdone hptr => exact (h.advancePtr hdone hptr).withPorts _ _ _ _
  | clear => exact State.inv_reset.withPorts _ _ _ _
  | nop => exact h
  | rewind => exact h.rewindPtr
  | push d hbusy _ hcount => exact h.pushByte d hbusy hcount
  | tooLong _ hbusy => exact h.raiseLen hbusy (.inr rfl)
  | tooShort hbusy => exact h.raiseLen hbusy (.inl rfl)
  | start _ herr hcount => exact h.beginEncode herr hcount

/-- Settles O16: the host's operation keeps the invariants, and so does a completion, which finds BUSY = 1. -/
theorem stepKeepsTheInvariants : Obligations.StepKeepsTheInvariants := by
  intro s t hinv hstep
  obtain ⟨-, rfl⟩ | ⟨i, u, -, heffect, rfl⟩ := step_effect hstep
  · exact State.inv_reset.withPorts _ _ _ _
  · have hu : u.Inv := heffect.inv (hinv.withPorts _ _ _ _)
    obtain ⟨-, -, hbusy, hedge⟩ | ⟨-, hedge⟩ := engineEdge_cases s.nextCycle.fire s.busy u
    · rw [hedge]
      exact hu.encComplete hbusy
    · rwa [hedge]

/-- Settles O17: in the reset state nothing is loaded, running or finished. -/
theorem resetStateHasTheInvariants : Obligations.ResetStateHasTheInvariants := State.inv_reset

/-! #### The register files and ACCERR -/

/-- Of the operations, only a push and a CLEAR write MB (R37). -/
theorem Effect.mb_eq {i : Instr} {s t : State} (heffect : Effect s i t) (hclear : i ≠ .wrCtrlClear)
    (hpush : ∀ d, i ≠ .wrEntIn d) : t.mb = s.mb := by
  cases heffect with
  | clear => exact absurd rfl hclear
  | push d => exact absurd rfl (hpush d)
  | _ => rfl

/-- Of the operations, only a CLEAR writes the results: a push stays below MB[32] (R22, R24). -/
theorem Effect.results_eq {i : Instr} {s t : State} (heffect : Effect s i t) (hclear : i ≠ .wrCtrlClear) :
    t.mb[32] = s.mb[32] ∧ t.idx = s.idx := by
  cases heffect with
  | clear => exact absurd rfl hclear
  | push d _ _ hcount => exact ⟨by rw [pushByte_getElem, if_neg (by omega)], rfl⟩
  | _ => exact ⟨rfl, rfl⟩

/-- ACCERR is sticky under every operation but a CLEAR (R226). -/
theorem Effect.accerr_eq {i : Instr} {s t : State} (heffect : Effect s i t) (hclear : i ≠ .wrCtrlClear) :
    t.accerr = (s.accerr || raisesAccErr s i) := by
  cases heffect with
  | clear => exact absurd rfl hclear
  | drive _ _ hraise | refuseRead _ hraise | refuseWrite _ hraise => simp [hraise]
  | push _ hbusy herr | tooLong _ hbusy herr | tooShort hbusy herr | start hbusy herr =>
    simp [raisesAccErr, hbusy, herr]
  | advance _ hdone => simp [raisesAccErr, hdone]
  | nop | rewind | selectHigh | selectLow => simp [raisesAccErr]

/-- Settles O33: the bytes of the entropy change in no operation but a push, and not at the engine's edge; the results
change in no operation but a CLEAR. -/
theorem registerFilesHaveOneWriter : Obligations.RegisterFilesHaveOneWriter := by
  intro s t hkeeps hstep
  obtain ⟨i, u, hacts, hclear, heffect, rfl⟩ := step_effect_of_keeps hkeeps hstep
  refine ⟨fun hpush j hj => ?_, fun hquiet => ?_⟩
  · have hmb : u.mb = s.mb := heffect.mb_eq hclear fun d hd => hpush d (hd ▸ hacts.issues (by simp [hd]))
    rw [engineEdge_entropy _ _ _ _ hj]
    simp only [hmb]
  · rw [engineEdge_of_quiet fun ⟨hfire, hbusy, _⟩ => hquiet ⟨hbusy, hfire⟩]
    exact heffect.results_eq hclear

/-- Settles O57: no operation but a CLEAR takes ACCERR away, and the engine does not write it. -/
theorem accErrIsClearedOnlyByClearOrReset : Obligations.AccErrIsClearedOnlyByClearOrReset := by
  intro s t haccerr hkeeps hstep
  obtain ⟨i, u, -, hclear, heffect, rfl⟩ := step_effect_of_keeps hkeeps hstep
  simp [heffect.accerr_eq hclear, haccerr]

/-! #### The idle cycle, and RD.ERRCODE -/

/-- Settles O10: with no transaction the step is the engine's edge, which is quiet. -/
theorem idleCycleKeepsEveryElement : Obligations.IdleCycleKeepsEveryElement := by
  intro s hrst hsel hquiet
  have hedge : engineEdge s.nextCycle.fire s.busy s.beginCycle = s.beginCycle :=
    engineEdge_of_quiet fun ⟨hfire, hbusy, _⟩ => by simp [hquiet hfire] at hbusy
  rw [step_of_idle hrst hsel, hedge]
  rfl

/-- Settles O50: widening keeps the code's value, and the invariants leave it three values. -/
theorem rdErrcodeReturnsTheCode : Obligations.RdErrcodeReturnsTheCode := by
  intro s
  refine ⟨by decide, s.drive (s.errcode.setWidth 8), rfl, rfl, ?_, fun hinv => ?_⟩
  · exact BitVec.toNat_setWidth_of_le (by decide)
  · rw [State.drive_rdata]
    obtain hcode | hcode | hcode := hinv.errcode_range
    · exact .inl (by simp [hcode])
    · exact .inr (.inl (by simp [hcode, lenShort]))
    · exact .inr (.inr (by simp [hcode, lenLong]))

end Sys2Proof.Machine
end

section
/-! ### Transactions and the memory (20_memory.md): the step that runs one, what a read leaves alone, pushes in a row, and the
entropy of a running encoding -/

namespace Sys2Proof.Machine

/-! #### The step that runs a transaction -/

theorem afterBus_engineEdge_not_fired (was : Bool) (o : Host.Outcome State Fault Refusal) :
    afterBus (engineEdge false was) o = o := by
  cases o with
  | next u => rw [afterBus, engineEdge_of_quiet (by simp)]
  | fault r => rfl
  | refused r => rfl

theorem step_of_issues {s : State} {i : Instr} (h : s.nextCycle.Issues i) :
    step s = afterBus (engineEdge s.nextCycle.fire s.busy) (exec i s.beginCycle) := by
  obtain ⟨hrst, hsel, rfl⟩ := h
  exact step_of_bus hrst hsel

/-- Settles O8: the cycle's operation, then the engine's edge, which is quiet where no completion is chosen. -/
theorem stepRunsTheDecodedOperation : Obligations.StepRunsTheDecodedOperation := by
  intro s c cs i hinputs hissues
  have hcycle : s.nextCycle = c := nextCycle_of_cons hinputs
  have hbegin : s.beginCycle = { s with inputs := cs, rdata := 0x00 } := by simp [State.beginCycle, hinputs]
  have hstep : step s = afterBus (engineEdge c.fire s.busy) (exec i { s with inputs := cs, rdata := 0x00 }) := by
    rw [← hbegin, ← hcycle]
    exact step_of_issues (hcycle ▸ hissues)
  refine ⟨hstep, fun hfire => ?_⟩
  rw [hstep, hfire, afterBus_engineEdge_not_fired]

theorem decodeTableWord_toNat (w : TWord) : decodeTableWord 17 w.toNat = some (decode w) := by
  have hlt : w.toNat < 2 ^ 17 := w.isLt
  rw [decodeTableWord, Nat.mod_eq_of_lt hlt, decodeNat, if_pos hlt, BitVec.ofNat_toNat, BitVec.setWidth_eq]
  rfl

theorem withFetchWord_toNat (s : State) (w : TWord) : s.withFetchWord 17 w.toNat = s.issue w := by
  rw [State.withFetchWord, Nat.mod_eq_of_lt w.isLt, BitVec.ofNat_toNat, BitVec.setWidth_eq]

/-- Settles O9: the cycle that is placed issues the word, and no completion falls at its edge. -/
theorem issuedWordRunsNext : Obligations.IssuedWordRunsNext := by
  intro s w
  refine ⟨decodeTableWord_toNat w, ?_⟩
  have hissues : (s.issue w).nextCycle.Issues (decode w) := ⟨rfl, rfl, by rw [nextCycle_issue, word_ofWord]⟩
  have hfire : (s.issue w).nextCycle.fire = false := rfl
  rw [withFetchWord_toNat, step_of_issues hissues, hfire, afterBus_engineEdge_not_fired, beginCycle_issue]

/-- Every clock cycle gives a next state (R220). -/
theorem exists_step_eq_next (s : State) : ∃ t, step s = .next t := by
  cases hrst : s.nextCycle.rst with
  | true => exact ⟨_, step_of_rst hrst⟩
  | false =>
    cases hsel : s.nextCycle.sel with
    | false => exact ⟨_, step_of_idle hrst hsel⟩
    | true =>
      obtain ⟨u, hu, -⟩ := exec_effect (decode s.nextCycle.word) s.beginCycle
      exact ⟨_, by rw [step_of_bus hrst hsel, hu, afterBus]⟩

/-! #### What a read and a write leave alone -/

/-- A read returns its byte, is refused by AccErr, or takes the next phrase byte. -/
theorem Effect.read_cases {i : Instr} {s t : State} (heffect : Effect s i t) (hread : i.isRead = true) :
    (raisesAccErr s i = false ∧ ∃ b, t = s.drive b) ∨
      (raisesAccErr s i = true ∧ t = s.flagAccErr.drive 0x00) ∨
        (i = .rdPhrData ∧ s.done = true ∧ s.ptr.toNat < s.plen ∧ ∃ b, t = s.advancePtr.drive b) := by
  cases heffect with
  | drive b _ hraise => exact .inl ⟨hraise, b, rfl⟩
  | refuseRead _ hraise => exact .inr (.inl ⟨hraise, rfl⟩)
  | advance b hdone hptr => exact .inr (.inr ⟨rfl, hdone, hptr, b, rfl⟩)
  | refuseWrite hwrite => simp [hread] at hwrite
  | _ => simp [Instr.isRead] at hread

/-- A write drives no read data. -/
theorem Effect.rdata_eq {i : Instr} {s t : State} (heffect : Effect s i t) (hwrite : i.isRead = false) :
    t.rdata = s.rdata := by
  cases heffect with
  | drive _ hread | refuseRead hread => simp [hread] at hwrite
  | advance => simp [Instr.isRead] at hwrite
  | _ => rfl

/-- Settles O59: a read's effects update the read data, ACCERR and, for the phrase stream alone, PTR. -/
theorem readsLeaveTheElementsAlone : Obligations.ReadsLeaveTheElementsAlone := by
  intro i s t hexec
  have heffect : Effect s i t := effect_of_exec hexec
  refine ⟨fun hread => ?_, heffect.rdata_eq⟩
  obtain ⟨-, b, rfl⟩ | ⟨-, rfl⟩ | ⟨rfl, -, -, b, rfl⟩ := heffect.read_cases hread
  · exact ⟨rfl, fun _ => rfl⟩
  · exact ⟨rfl, fun _ => rfl⟩
  · exact ⟨rfl, fun hi => absurd rfl hi⟩

theorem gatedRead_drive {f : State → Byte} {s : State} {b : Byte} (hf : f (s.drive b) = f s) :
    gatedRead f (s.drive b) = gatedRead f s := by
  cases hdone : s.done with
  | true => rw [gatedRead_of_done f hdone, gatedRead_of_done f (s := s.drive b) hdone, hf]; rfl
  | false => rw [gatedRead_of_not_done f hdone, gatedRead_of_not_done f (s := s.drive b) hdone]; rfl

/-- No read looks at the read data that is there before it. -/
theorem exec_drive_of_isRead {i : Instr} (s : State) (b : Byte) (hread : i.isRead = true) :
    exec i (s.drive b) = exec i s := by
  cases i with
  | rdCsum | rdIdxHi _ | rdIdxLo _ => exact congrArg Host.Outcome.next (gatedRead_drive rfl)
  | rdPhrData =>
    cases hdone : s.done with
    | false => simp [exec, execRdPhrData, hdone, State.drive, State.flagAccErr]
    | true => simp [exec, execRdPhrData, hdone, State.drive, State.advancePtr, State.phrase]
  | wrCtrlClear | wrCtrlStart | wrCtrlPrw | wrCtrlNop | wrEntIn _ | wrWselHi _ | wrWselLo _ | wrIllegal _ _ =>
    simp [Instr.isRead] at hread
  | _ => rfl

/-- Whether an operation is refused does not depend on ACCERR or the read data (R227). -/
theorem raisesAccErr_flagAccErr_drive (s : State) (i : Instr) (b : Byte) :
    raisesAccErr (s.flagAccErr.drive b) i = raisesAccErr s i := by
  cases i <;> rfl

/-- A read that the table of R227 lists is refused. -/
theorem exec_of_refused_read {i : Instr} {s : State} (hread : i.isRead = true) (hraise : raisesAccErr s i = true) :
    exec i s = .next (s.flagAccErr.drive 0x00) := by
  obtain ⟨t, ht, heffect⟩ := exec_effect i s
  obtain ⟨hnot, -⟩ | ⟨-, rfl⟩ | ⟨rfl, hdone, -⟩ := heffect.read_cases hread
  · simp [hraise] at hnot
  · exact ht
  · simp [raisesAccErr, hdone] at hraise

/-- Settles O58: a read that is not refused is made again from the same elements, and a refused one is refused again. -/
theorem readsAreIdempotentButThePhraseStream : Obligations.ReadsAreIdempotentButThePhraseStream := by
  intro i s t hread hexec hstill
  obtain ⟨-, b, rfl⟩ | ⟨hraise, rfl⟩ | ⟨rfl, hdone, hptr, -⟩ := (effect_of_exec hexec).read_cases hread
  · rw [exec_drive_of_isRead s b hread, hexec]
  · rw [exec_of_refused_read hread (by rwa [raisesAccErr_flagAccErr_drive])]
    rfl
  · obtain hne | hnot | hend := hstill
    · exact absurd rfl hne
    · simp [hdone] at hnot
    · omega

/-! #### Pushes in a row -/

theorem exec_wrEntIn_of_room {s : State} (d : Byte) (hbusy : s.busy = false) (herr : s.errcode = 0)
    (hcount : s.entCnt.toNat < 32) : exec (.wrEntIn d) s = .next (s.pushByte d) := by
  have hload : s.refusesLoad = false := (refusesLoad_eq_false_iff s).mpr ⟨hbusy, herr⟩
  simp [exec, execWrEntIn, hload, hcount]

theorem exec_wrEntIn_of_full {s : State} (d : Byte) (hbusy : s.busy = false) (herr : s.errcode = 0)
    (hcount : 32 ≤ s.entCnt.toNat) : exec (.wrEntIn d) s = .next (s.raiseLen lenLong) := by
  have hload : s.refusesLoad = false := (refusesLoad_eq_false_iff s).mpr ⟨hbusy, herr⟩
  simp [exec, execWrEntIn, hload, Nat.not_lt.mpr hcount]

/-- The state t is s with the bytes bs loaded from MB[0] on (R54, R101). -/
structure State.LoadedWith (s : State) (bs : List Byte) (t : State) : Prop where
  frame : t = { s with mb := t.mb, entCnt := t.entCnt }
  count : t.entCnt.toNat = bs.length
  bytes : ∀ (k : Nat) (h : k < 33), t.mb[k] = bs[k]?.getD s.mb[k]

section LoadedWith
variable {s t : State} {bs : List Byte}

theorem State.LoadedWith.busy (h : s.LoadedWith bs t) : t.busy = s.busy := by rw [h.frame]

theorem State.LoadedWith.errcode (h : s.LoadedWith bs t) : t.errcode = s.errcode := by rw [h.frame]

theorem State.LoadedWith.nil (hcount : s.entCnt = 0) : s.LoadedWith [] s where
  frame := rfl
  count := by simp [hcount]
  bytes _ _ := rfl

/-- One more push stores its byte behind those that are loaded (R102). -/
theorem State.LoadedWith.push (h : s.LoadedWith bs t) (d : Byte) (hlen : bs.length < 32) :
    s.LoadedWith (bs ++ [d]) (t.pushByte d) where
  frame := by
    conv_lhs => rw [h.frame]
    rfl
  count := by
    have hcount := h.count
    simp only [State.pushByte_entCnt, List.length_append, List.length_singleton]
    bv_omega
  bytes k hk := by
    rw [pushByte_getElem, h.count]
    split
    case isTrue hlast => simp [← hlast]
    case isFalse hother =>
      rw [h.bytes k hk]
      by_cases hlt : k < bs.length
      · rw [List.getElem?_append_left hlt]
      · rw [List.getElem?_eq_none (by omega), List.getElem?_eq_none (by simp; omega)]

end LoadedWith

/-- Up to 32 pushes into an empty buffer are all accepted. -/
theorem execAll_pushes (bs : List Byte) {s : State} (hlen : bs.length ≤ 32) (hbusy : s.busy = false)
    (herr : s.errcode = 0) (hcount : s.entCnt = 0) :
    ∃ t, execAll (bs.map .wrEntIn) s = .next t ∧ s.LoadedWith bs t := by
  induction bs using List.reverseRecOn with
  | nil => exact ⟨s, rfl, .nil hcount⟩
  | append_singleton bs d ih =>
    have hroom : bs.length < 32 := by simpa using hlen
    obtain ⟨t, hrun, hloaded⟩ := ih hroom.le
    have hpush : exec (.wrEntIn d) t = .next (t.pushByte d) :=
      exec_wrEntIn_of_room d (hloaded.busy.trans hbusy) (hloaded.errcode.trans herr) (hloaded.count ▸ hroom)
    refine ⟨t.pushByte d, ?_, hloaded.push d hroom⟩
    rw [List.map_append, execAll_append_of_next hrun]
    exact execAll_cons_of_next hpush

/-- Settles O22: by induction over the pushes; the next one finds ENT_CNT at 32. -/
theorem pushesFillTheBufferInOrder : Obligations.PushesFillTheBufferInOrder := by
  intro bs s hlen hbusy herr hcount
  obtain ⟨t, hrun, hloaded⟩ := execAll_pushes bs hlen hbusy herr hcount
  refine ⟨t, hrun, hloaded.frame, hloaded.count, fun k hk => ?_, fun hfull d => ?_⟩
  · rw [hloaded.bytes k hk]
    split
    case isTrue hlt => simp [hlt]
    case isFalse hge => simp [Nat.not_lt.mp hge]
  · exact exec_wrEntIn_of_full d (hloaded.busy.trans hbusy) (hloaded.errcode.trans herr)
      (by rw [hloaded.count, hfull])

/-! #### The entropy of a running encoding, and the results after it -/

theorem Effect.inputs_eq {i : Instr} {s t : State} (heffect : Effect s i t) : t.inputs = s.inputs := by
  cases heffect <;> rfl

@[simp] theorem engineEdge_entCnt (fire was : Bool) (s : State) : (engineEdge fire was s).entCnt = s.entCnt := by
  obtain ⟨-, -, -, h⟩ | ⟨-, h⟩ := engineEdge_cases fire was s
  · rw [h, encComplete_eq, State.storeResults_entCnt]
  · rw [h]

/-- Of the operations, only a CLEAR reaches the engine, the buffer, the count or the code while BUSY = 1 (R67, R228). -/
theorem Effect.frame_of_busy {i : Instr} {s t : State} (heffect : Effect s i t) (hclear : i ≠ .wrCtrlClear)
    (hbusy : s.busy = true) :
    t.busy = true ∧ t.mb = s.mb ∧ t.entCnt = s.entCnt ∧ t.errcode = s.errcode := by
  cases heffect with
  | clear => exact absurd rfl hclear
  | push _ hidle | tooLong _ hidle | tooShort hidle | start hidle => simp [hbusy] at hidle
  | _ => exact ⟨hbusy, rfl, rfl, rfl⟩

/-- A cycle that does not cancel a running encoding: an operation that leaves the encoding alone, then the engine's edge. -/
theorem step_of_busy {s : State} (hbusy : s.busy = true) (hkeeps : s.nextCycle.Keeps) :
    ∃ u, step s = .next (engineEdge s.nextCycle.fire s.busy u) ∧ u.inputs = s.inputs.tail ∧
      u.busy = true ∧ u.mb = s.mb ∧ u.entCnt = s.entCnt ∧ u.errcode = s.errcode := by
  obtain ⟨t, hstep⟩ := exists_step_eq_next s
  obtain ⟨i, u, -, hclear, heffect, rfl⟩ := step_effect_of_keeps hkeeps hstep
  exact ⟨u, hstep, heffect.inputs_eq, heffect.frame_of_busy hclear hbusy⟩

/-- Settles O32: neither the host's operation nor the engine's edge writes MB[0..31] or ENT_CNT. -/
theorem entropyIsFixedWhileBusy : Obligations.EntropyIsFixedWhileBusy := by
  intro s t hbusy hkeeps hstep
  obtain ⟨u, hu, -, -, hmb, hcount, -⟩ := step_of_busy hbusy hkeeps
  cases hu.symm.trans hstep
  refine ⟨by rw [engineEdge_entCnt, hcount], fun j hj => ?_⟩
  rw [engineEdge_entropy _ _ _ _ hj]
  simp only [hmb]

/-- DONE is written only by a CLEAR, a START or a push, among the operations (R26). -/
theorem Effect.done_eq {i : Instr} {s t : State} (heffect : Effect s i t) (hclear : i ≠ .wrCtrlClear)
    (hstart : i ≠ .wrCtrlStart) (hpush : ∀ d, i ≠ .wrEntIn d) : t.done = s.done := by
  cases heffect with
  | clear => exact absurd rfl hclear
  | tooShort | start => exact absurd rfl hstart
  | tooLong d => exact absurd rfl (hpush d)
  | _ => rfl

/-- Settles O35: with DONE = 1 the engine is idle, so the edge is quiet, and no operation left writes the results. -/
theorem resultsStayUntilStartPushOrClear : Obligations.ResultsStayUntilStartPushOrClear := by
  intro s t hinv hdone hkeeps hstart hpush hstep
  obtain ⟨-, hidle, -⟩ := hinv.done_excludes hdone
  obtain ⟨i, u, hacts, hclear, heffect, rfl⟩ := step_effect_of_keeps hkeeps hstep
  have hstart' : i ≠ .wrCtrlStart := fun hi => hstart (hi ▸ hacts.issues (by simp [hi]))
  have hpush' : ∀ d, i ≠ .wrEntIn d := fun d hi => hpush d (hi ▸ hacts.issues (by simp [hi]))
  rw [engineEdge_of_quiet fun ⟨_, hbusy, _⟩ => by simp [hidle] at hbusy]
  obtain ⟨-, hidx⟩ := heffect.results_eq hclear
  exact ⟨(heffect.done_eq hclear hstart' hpush').trans hdone, heffect.mb_eq hclear hpush', hidx⟩

/-- An encoding of the buffer m is running. -/
structure State.Encoding (m : Vector Byte 33) (s : State) : Prop where
  busy : s.busy = true
  errcode : s.errcode = 0
  mb : s.mb = m

section Encoding
variable {m : Vector Byte 33} {s : State} {c : Cycle} {cs : List Cycle}

/-- An accepted START begins an encoding of the buffer it finds; no completion falls in its own cycle (R121, R127). -/
theorem step_start_encoding (hidle : s.busy = false) (herr : s.errcode = 0) (hcount : 32 ≤ s.entCnt.toNat)
    (hissues : s.nextCycle.Issues .wrCtrlStart) :
    ∃ t, step s = .next t ∧ t.Encoding s.mb ∧ t.inputs = s.inputs.tail := by
  have hload : s.beginCycle.refusesLoad = false := (refusesLoad_eq_false_iff _).mpr ⟨hidle, herr⟩
  have hexec : exec .wrCtrlStart s.beginCycle = .next s.beginCycle.beginEncode := by
    simp [exec, execWrCtrlStart, hload, Nat.not_lt.mpr hcount]
  refine ⟨s.beginCycle.beginEncode, ?_, ⟨rfl, herr, rfl⟩, rfl⟩
  rw [step_of_issues hissues, hexec, afterBus, engineEdge_of_quiet fun ⟨_, hbusy, _⟩ => by simp [hidle] at hbusy]

/-- While no completion is chosen, a cycle that does not cancel the encoding keeps it. -/
theorem State.Encoding.step_not_fired (h : s.Encoding m) (hinputs : s.inputs = c :: cs) (hkeeps : c.Keeps)
    (hfire : c.fire = false) : ∃ t, step s = .next t ∧ t.Encoding m ∧ t.inputs = cs := by
  obtain rfl := nextCycle_of_cons hinputs
  obtain ⟨u, hstep, htail, hbusy, hmb, -, herr⟩ := step_of_busy h.busy hkeeps
  rw [hfire, engineEdge_of_quiet (by simp)] at hstep
  exact ⟨u, hstep, ⟨hbusy, herr.trans h.errcode, hmb.trans h.mb⟩, by rw [htail, hinputs, List.tail_cons]⟩

/-- The cycle in which the completion is chosen ends the encoding in success, with the results of its buffer (R127, R266). -/
theorem State.Encoding.step_fired (h : s.Encoding m) (hinputs : s.inputs = c :: cs) (hkeeps : c.Keeps)
    (hfire : c.fire = true) :
    ∃ t, step s = .next t ∧ t.Success ∧ t.inputs = cs ∧ t.mb = m.set 32 (checksum hash m) ∧
      t.idx = lanes (m.set 32 (checksum hash m)) := by
  obtain rfl := nextCycle_of_cons hinputs
  obtain ⟨u, hstep, htail, hbusy, hmb, -, herr⟩ := step_of_busy h.busy hkeeps
  rw [engineEdge_of_due hfire h.busy hbusy, encComplete_eq, hmb, h.mb] at hstep
  refine ⟨_, hstep, ⟨⟨rfl, .inl rfl⟩, rfl, herr.trans h.errcode⟩, ?_, ?_, rfl⟩
  · rw [State.storeResults_inputs, htail, hinputs, List.tail_cons]
  · rw [State.storeResults_mb, hmb, h.mb]

/-- Any number of cycles that neither cancel nor complete the encoding keep it. -/
theorem State.Encoding.run_not_fired {rest : List Cycle} (k : Nat) (h : s.Encoding m)
    (hinputs : s.inputs = cs ++ rest) (hcs : ∀ c ∈ cs, c.Keeps ∧ c.fire = false) :
    ∃ t, Host.Core.run core (cs.length + k) s = Host.Core.run core k t ∧ t.Encoding m ∧ t.inputs = rest := by
  induction cs generalizing s with
  | nil => exact ⟨s, by simp, h, hinputs⟩
  | cons c cs ih =>
    obtain ⟨⟨hkeeps, hfire⟩, hcs⟩ := List.forall_mem_cons.mp hcs
    obtain ⟨u, hstep, hu, huinputs⟩ := h.step_not_fired hinputs hkeeps hfire
    obtain ⟨t, hrun, ht⟩ := ih hu huinputs hcs
    exact ⟨t, by rw [← hrun, List.length_cons, Nat.add_right_comm, run_succ_of_next hstep], ht⟩

end Encoding

/-- Settles O31: START begins an encoding of the buffer, the cycles between keep it, and the completion stores its results. -/
theorem everyInterleavingEncodesTheEntropyOfStart : Obligations.EveryInterleavingEncodesTheEntropyOfStart := by
  intro s c0 cf cs rest hidle herr hcount hinputs hstart hcs hkeeps hfire
  have hcycle : s.nextCycle = c0 := nextCycle_of_cons hinputs
  obtain ⟨t₀, hstep₀, henc₀, hinputs₀⟩ := step_start_encoding hidle herr hcount (hcycle ▸ hstart)
  rw [hinputs, List.tail_cons] at hinputs₀
  obtain ⟨t₁, hrun₁, henc₁, hinputs₁⟩ := henc₀.run_not_fired 1 hinputs₀ hcs
  obtain ⟨t, hstep, hresult⟩ := henc₁.step_fired hinputs₁ hkeeps hfire
  refine ⟨t, ?_, hresult⟩
  calc Host.Core.run core (cs.length + 1 + 1) s
    _ = Host.Core.run core (cs.length + 1) t₀ := run_succ_of_next hstep₀
    _ = Host.Core.run core 1 t₁ := hrun₁
    _ = .next t := run_succ_of_next hstep

end Sys2Proof.Machine
end

section
/-! ### The opcode map (30_encoding.md): its rows, the words by address, and decode against encode -/

namespace Sys2Proof

/-! #### The rows -/

/-- The two rows fix a bit in common, at different values. -/
def Row.clashes (r r' : Row) : Bool := r.pattern &&& r'.mask != r'.pattern &&& r.mask

/-- No word is in both rows. -/
def Row.Disjoint (r r' : Row) : Prop := ∀ w, ¬ (r.hits w = true ∧ r'.hits w = true)

theorem Row.disjoint_of_clashes {r r' : Row} (h : r.clashes r' = true) : r.Disjoint r' := by
  rintro w ⟨hhit, hhit'⟩
  simp only [Row.hits, Bool.and_eq_true, beq_iff_eq] at hhit hhit'
  obtain ⟨hfixed, -⟩ := hhit
  obtain ⟨hfixed', -⟩ := hhit'
  have hsame : r.pattern &&& r'.mask = r'.pattern &&& r.mask := by
    rw [← hfixed, ← hfixed', BitVec.and_assoc, BitVec.and_assoc, BitVec.and_comm r.mask]
  simp [Row.clashes, hsame] at h

theorem opcodeMap_pairwise_disjoint : opcodeMap.Pairwise Row.Disjoint := by
  have hclash : opcodeMap.Pairwise fun r r' => r.clashes r' = true := by decide
  exact hclash.imp Row.disjoint_of_clashes

theorem row_eq_of_hits {r r' : Row} {w : TWord} (hmem : r ∈ opcodeMap) (hmem' : r' ∈ opcodeMap) (hhit : r.hits w = true)
    (hhit' : r'.hits w = true) : r = r' := by
  have hsymm : Std.Symm Row.Disjoint := ⟨fun _ _ h w hw => h w hw.symm⟩
  by_contra hne
  exact opcodeMap_pairwise_disjoint.forall hmem hmem' hne w ⟨hhit, hhit'⟩

theorem decode_of_hits {r : Row} {w : TWord} (hmem : r ∈ opcodeMap) (hhit : r.hits w = true) : decode w = r.build w := by
  cases hfind : opcodeMap.find? (·.hits w) with
  | none => exact absurd hhit (List.find?_eq_none.mp hfind r hmem)
  | some r' =>
    have hhit' : r'.hits w = true := List.find?_some (p := fun r : Row => r.hits w) hfind
    obtain rfl := row_eq_of_hits (List.mem_of_find?_eq_some hfind) hmem hhit' hhit
    rw [decode, hfind]

theorem decode_of_no_hit {w : TWord} (h : ∀ r ∈ opcodeMap, r.hits w = false) : decode w = catchAll w := by
  have hfind : opcodeMap.find? (·.hits w) = none := List.find?_eq_none.mpr fun r hr => by simp [h r hr]
  rw [decode, hfind]

/-- Settles O1: the rows are pairwise disjoint, so the first row that a word is in is the only one. -/
theorem decodeTakesTheOneRowHit : Obligations.DecodeTakesTheOneRowHit := by
  refine ⟨opcodeMap_pairwise_disjoint, fun w => ⟨fun _ => decode_of_hits, fun hmiss hw => ?_, fun hmiss hw => ?_⟩⟩
  · simp [decode_of_no_hit hmiss, catchAll, hw]
  · simp [decode_of_no_hit hmiss, catchAll, hw]

/-! #### The bits that a row looks at -/

theorem extractLsb'_tword_addr (we : Bool) (a d : Byte) (k n : Nat) (h : k + n ≤ 8) :
    (tword we a d).extractLsb' (8 + k) n = a.extractLsb' k n := by
  apply BitVec.eq_of_getLsbD_eq
  intro i hi
  simp [getLsbD_tword, hi, show 8 + k + i < 16 by omega, show ¬ 8 + k + i < 8 by omega,
    show 8 + k + i - 8 = k + i by omega]

theorem extractLsb'_tword_data (we : Bool) (a d : Byte) (k n : Nat) (h : k + n ≤ 8) :
    (tword we a d).extractLsb' k n = d.extractLsb' k n := by
  apply BitVec.eq_of_getLsbD_eq
  intro i hi
  simp [getLsbD_tword, hi, show k + i < 8 by omega]

theorem fieldGroup_tword (we : Bool) (a d : Byte) : fieldGroup (tword we a d) = (a.extractLsb' 1 6).toNat :=
  congrArg BitVec.toNat (extractLsb'_tword_addr we a d 1 6 (by decide))

/-- A constraint looks at A only (R83). -/
theorem constraint_ignores_data (we : Bool) (a d : Byte) :
    ∀ r ∈ opcodeMap, r.constraint (tword we a d) = r.constraint (tword we a 0) := by
  simp [opcodeMap, Row.free, fieldGroup_tword]

theorem mask_of_read_row : ∀ r ∈ opcodeMap, fieldW r.pattern = false → fieldD r.mask = 0 := by decide

/-- A read takes no operand from D (R81, R85). -/
theorem build_of_read_row_ignores_data (we : Bool) (a d : Byte) :
    ∀ r ∈ opcodeMap, fieldW r.pattern = false → r.build (tword we a d) = r.build (tword we a 0) := by
  have hbyte (d : Byte) : (tword we a d).extractLsb' 8 5 = a.extractLsb' 0 5 :=
    extractLsb'_tword_addr we a d 0 5 (by decide)
  have hchar (d : Byte) : (tword we a d).extractLsb' 8 4 = a.extractLsb' 0 4 :=
    extractLsb'_tword_addr we a d 0 4 (by decide)
  simp (decide := true) only [opcodeMap, Row.free, List.forall_mem_cons, hbyte, hchar, fieldGroup_tword,
    forall_const, false_imp_iff, List.not_mem_nil, implies_true, and_self]

theorem hits_ignores_data {r : Row} (hmem : r ∈ opcodeMap) (hmask : fieldD r.mask = 0) (we : Bool) (a d : Byte) :
    r.hits (tword we a d) = r.hits (tword we a 0) := by
  simp [Row.hits_tword, hmask, constraint_ignores_data we a d r hmem]

/-- Every row fixes W, so the rows that a word is in are of its kind (R83). -/
theorem fields_of_hits {r : Row} {we : Bool} {a d : Byte} (hmem : r ∈ opcodeMap) (hhit : r.hits (tword we a d) = true) :
    fieldW r.pattern = we ∧ a &&& fieldA r.mask = fieldA r.pattern := by
  have hmask : ∀ r ∈ opcodeMap, fieldW r.mask = true := by decide
  simp only [Row.hits_tword, hmask r hmem, Bool.and_true, Bool.and_eq_true, beq_iff_eq] at hhit
  obtain ⟨⟨⟨hw, ha⟩, -⟩, -⟩ := hhit
  exact ⟨hw.symm, ha⟩

/-! #### Reads -/

theorem hits_read {r : Row} (hmem : r ∈ opcodeMap) (a d : Byte) :
    r.hits (tword false a d) = r.hits (tword false a 0) := by
  cases hw : fieldW r.pattern with
  | false => exact hits_ignores_data hmem (mask_of_read_row r hmem hw) false a d
  | true =>
    have hmiss : ∀ d, r.hits (tword false a d) = false := fun d => by
      by_contra hhit
      simp [(fields_of_hits hmem (Bool.eq_true_of_not_eq_false hhit)).1] at hw
    rw [hmiss, hmiss]

theorem decode_read_ignores_data (a d : Byte) : decode (tword false a d) = decode (tword false a 0) := by
  by_cases hhit : ∃ r ∈ opcodeMap, r.hits (tword false a 0) = true
  case pos =>
    obtain ⟨r, hmem, h0⟩ := hhit
    have hd : r.hits (tword false a d) = true := (hits_read hmem a d).trans h0
    have hread : fieldW r.pattern = false := (fields_of_hits hmem h0).1
    rw [decode_of_hits hmem hd, decode_of_hits hmem h0, build_of_read_row_ignores_data false a d r hmem hread]
  case neg =>
    have h0 : ∀ r ∈ opcodeMap, r.hits (tword false a 0) = false := by simpa using hhit
    rw [decode_of_no_hit h0, decode_of_no_hit fun r hmem => (hits_read hmem a d).trans (h0 r hmem)]
    simp [catchAll]

/-- Every address, read with D = 0x00: the operation is a read, and its word is the one decoded (R80, R83). -/
theorem decode_read_sound : ∀ a : Byte,
    (decode (tword false a 0)).wf = true ∧ (decode (tword false a 0)).isRead = true ∧
      encode (decode (tword false a 0)) = tword false a 0 := by decide

theorem decode_reserved_zero : ∀ a : Byte, reservedAddr a = true → decode (tword false a 0) = .rdRsvd a := by decide

theorem decode_reserved {a : Byte} (h : reservedAddr a = true) (d : Byte) : decode (tword false a d) = .rdRsvd a :=
  (decode_read_ignores_data a d).trans (decode_reserved_zero a h)

/-! #### Writes -/

/-- Settles O5: each of the 256 data bytes is decoded by evaluation. -/
theorem ctrlCommandPriority : Obligations.CtrlCommandPriority := by
  unfold Obligations.CtrlCommandPriority
  decide

/-- A row that does not look at D decides every word of an address that it decides with D = 0x00. -/
theorem decode_of_hits_zero {r : Row} {we : Bool} {a : Byte} (hmem : r ∈ opcodeMap) (hmask : fieldD r.mask = 0)
    (hhit : r.hits (tword we a 0) = true) (d : Byte) : decode (tword we a d) = r.build (tword we a d) :=
  decode_of_hits hmem ((hits_ignores_data hmem hmask we a d).trans hhit)

/-- Row 20 of R83, at position 18 of the list, which leaves out row 15. -/
theorem decode_wrEntIn (d : Byte) : decode (tword true 0x44 d) = .wrEntIn d := by
  have hrow := decode_of_hits_zero (r := opcodeMap[18]) (we := true) (a := 0x44) (List.getElem_mem _) (by decide)
    (by decide) d
  exact hrow.trans (congrArg Instr.wrEntIn (fieldD_tword true 0x44 d))

/-- Row 21 of R83. -/
theorem decode_wrWselHi (d : Byte) : decode (tword true 0x46 d) = .wrWselHi (d.extractLsb' 0 3) := by
  have hrow := decode_of_hits_zero (r := opcodeMap[19]) (we := true) (a := 0x46) (List.getElem_mem _) (by decide)
    (by decide) d
  exact hrow.trans (congrArg Instr.wrWselHi (extractLsb'_tword_data true 0x46 d 0 3 (by decide)))

/-- Row 22 of R83. -/
theorem decode_wrWselLo (d : Byte) : decode (tword true 0x47 d) = .wrWselLo d := by
  have hrow := decode_of_hits_zero (r := opcodeMap[20]) (we := true) (a := 0x47) (List.getElem_mem _) (by decide)
    (by decide) d
  exact hrow.trans (congrArg Instr.wrWselLo (fieldD_tword true 0x47 d))

/-- A write row fixes all of A, at a writable address (R52, R83). -/
theorem writableAddr_of_hits {r : Row} {a d : Byte} (hmem : r ∈ opcodeMap) (hhit : r.hits (tword true a d) = true) :
    writableAddr a = true := by
  have hrow : ∀ r ∈ opcodeMap, fieldW r.pattern = true →
      fieldA r.mask = BitVec.allOnes 8 ∧ writableAddr (fieldA r.pattern) = true := by decide
  obtain ⟨hw, ha⟩ := fields_of_hits hmem hhit
  obtain ⟨hmask, hwritable⟩ := hrow r hmem hw
  rw [hmask, BitVec.and_allOnes] at ha
  rwa [ha]

theorem decode_wrIllegal {a : Byte} (h : writableAddr a = false) (d : Byte) :
    decode (tword true a d) = .wrIllegal a d := by
  have hmiss : ∀ r ∈ opcodeMap, r.hits (tword true a d) = false := fun r hmem =>
    Bool.eq_false_iff.mpr fun hhit => by simp [writableAddr_of_hits hmem hhit] at h
  simp [decode_of_no_hit hmiss, catchAll]

theorem writableAddr_iff (a : Byte) : writableAddr a = true ↔ a = 0x40 ∨ a = 0x44 ∨ a = 0x46 ∨ a = 0x47 := by
  simp [writableAddr, or_assoc]

/-- Settles O6: a read's row and operands leave D out, and a write to CTRL or WSEL_HI is decoded from D[2:0]. -/
theorem ignoredBitsDoNotChangeTheOperation : Obligations.IgnoredBitsDoNotChangeTheOperation := by
  refine ⟨fun a d d' => (decode_read_ignores_data a d).trans (decode_read_ignores_data a d').symm, ?_⟩
  rintro _ d d' (rfl | rfl) hlow
  · have hbit (k : Nat) (hk : k < 3) : d.getLsbD k = d'.getLsbD k := by
      simpa [BitVec.getLsbD_extractLsb', hk] using congrArg (·.getLsbD k) hlow
    rw [ctrlCommandPriority d, ctrlCommandPriority d', hbit 0 (by decide), hbit 1 (by decide), hbit 2 (by decide)]
  · rw [decode_wrWselHi, decode_wrWselHi, hlow]

/-! #### Encoding -/

theorem tword_or_data (we : Bool) (a d : Byte) : tword we a 0 ||| d.setWidth 17 = tword we a d := by
  apply BitVec.eq_of_getLsbD_eq
  intro i hi
  simp only [BitVec.getLsbD_or, BitVec.getLsbD_setWidth, getLsbD_tword, hi]
  by_cases hlow : i < 8
  · simp [hlow]
  · simp [hlow, BitVec.getLsbD_of_ge d i (by omega)]

theorem encode_wrEntIn (d : Byte) : encode (.wrEntIn d) = tword true 0x44 d := tword_or_data true 0x44 d

theorem encode_wrWselLo (d : Byte) : encode (.wrWselLo d) = tword true 0x47 d := tword_or_data true 0x47 d

theorem encode_wrWselHi (d : BitVec 3) : encode (.wrWselHi d) = tword true 0x46 (d.setWidth 8) := by
  revert d
  decide

/-- Settles O3: the word of each operation lies in the operation's own row, or in no row for the two catch-all operations. -/
theorem decodeOfEncodeIsIdentity : Obligations.DecodeOfEncodeIsIdentity := by
  intro i hwf
  cases i with
  | rdMb j | rdWchr j | rdIdxHi j | rdIdxLo j =>
    revert j
    decide
  | rdCsum | rdCtrl | rdStatus | rdErrcode | rdEntCnt | rdEntIn | rdPhrData | rdWselHi | rdWselLo | rdWlen
  | wrCtrlClear | wrCtrlStart | wrCtrlPrw | wrCtrlNop => decide
  | rdRsvd a => exact decode_reserved hwf 0
  | wrEntIn d => rw [encode_wrEntIn, decode_wrEntIn]
  | wrWselHi d =>
    have hlow : (d.setWidth 8).extractLsb' 0 3 = d := by
      revert d
      decide
    rw [encode_wrWselHi, decode_wrWselHi, hlow]
  | wrWselLo d => rw [encode_wrWselLo, decode_wrWselLo]
  | wrIllegal a d => exact decode_wrIllegal (by simpa [Instr.wf] using hwf) d

/-- The operation is well formed, and its word is one of kind we at address a (R80). -/
def Instr.LiesAt (i : Instr) (we : Bool) (a : Byte) : Prop :=
  i.wf = true ∧ i.isRead = !we ∧ ∃ d, encode i = tword we a d

theorem decode_read_liesAt (a d : Byte) : (decode (tword false a d)).LiesAt false a := by
  obtain ⟨hwf, hread, hencode⟩ := decode_read_sound a
  rw [decode_read_ignores_data]
  exact ⟨hwf, hread, 0, hencode⟩

theorem decode_ctrl_liesAt (d : Byte) : (decode (tword true 0x40 d)).LiesAt true 0x40 := by
  rw [ctrlCommandPriority d]
  split_ifs
  · exact ⟨rfl, rfl, 0x02, rfl⟩
  · exact ⟨rfl, rfl, 0x01, rfl⟩
  · exact ⟨rfl, rfl, 0x04, rfl⟩
  · exact ⟨rfl, rfl, 0x00, rfl⟩

theorem decode_write_liesAt (a d : Byte) : (decode (tword true a d)).LiesAt true a := by
  cases ha : writableAddr a with
  | false =>
    rw [decode_wrIllegal ha]
    exact ⟨by simp [Instr.wf, ha], rfl, d, rfl⟩
  | true =>
    obtain rfl | rfl | rfl | rfl := (writableAddr_iff a).mp ha
    · exact decode_ctrl_liesAt d
    · rw [decode_wrEntIn]
      exact ⟨rfl, rfl, d, encode_wrEntIn d⟩
    · rw [decode_wrWselHi]
      exact ⟨rfl, rfl, _, encode_wrWselHi _⟩
    · rw [decode_wrWselLo]
      exact ⟨rfl, rfl, d, encode_wrWselLo d⟩

theorem decode_liesAt (we : Bool) (a d : Byte) : (decode (tword we a d)).LiesAt we a := by
  cases we with
  | false => exact decode_read_liesAt a d
  | true => exact decode_write_liesAt a d

/-- Settles O4: the word's kind and address are those of the operation's own word. -/
theorem decodeKeepsKindAndAddress : Obligations.DecodeKeepsKindAndAddress := by
  intro w
  have hlies := decode_liesAt (fieldW w) (fieldA w) (fieldD w)
  rw [tword_fields] at hlies
  obtain ⟨hwf, hread, d, hencode⟩ := hlies
  exact ⟨hwf, hread, by rw [hencode, fieldW_tword], by rw [hencode, fieldA_tword]⟩

theorem reservedAddr_iff (a : Byte) :
    reservedAddr a = true ↔
      (0x21 ≤ a ∧ a ≤ 0x3F) ∨ (0x49 ≤ a ∧ a ≤ 0x4F) ∨ (0x60 ≤ a ∧ a ≤ 0x7F) ∨ (0xB0 ≤ a ∧ a ≤ 0xFF) := by
  simp only [reservedAddr, Bool.or_eq_true, Bool.and_eq_true, decide_eq_true_eq, or_assoc]

/-- Settles O2: what is decoded is well formed, so a catch-all operation has an address that no other row covers; at such an
address no row is hit. -/
theorem catchAllRowsByAddress : Obligations.CatchAllRowsByAddress := by
  intro a d
  rw [← reservedAddr_iff]
  refine ⟨⟨fun hdecode => ?_, fun h => decode_reserved h d⟩, fun hdecode => ?_, fun hne => ?_⟩
  · obtain ⟨hwf, -⟩ := decode_read_liesAt a d
    rwa [hdecode] at hwf
  · obtain ⟨hwf, -⟩ := decode_write_liesAt a d
    simpa [hdecode, Instr.wf, writableAddr, and_assoc] using hwf
  · exact decode_wrIllegal (by simpa [writableAddr, and_assoc] using hne) d

/-- Settles O7: each of the sixteen words is decoded by evaluation. -/
theorem wordsOfTheSpecDecode : Obligations.WordsOfTheSpecDecode := by
  unfold Obligations.WordsOfTheSpecDecode
  decide

end Sys2Proof
end

section
/-! ### The straight-line pseudo-operations (R90): load and start, select and read back -/

namespace Sys2Proof.Machine

theorem exec_wrCtrlStart_of_full {s : State} (hbusy : s.busy = false) (herr : s.errcode = 0)
    (hcount : 32 ≤ s.entCnt.toNat) : exec .wrCtrlStart s = .next s.beginEncode := by
  have hload : s.refusesLoad = false := (refusesLoad_eq_false_iff s).mpr ⟨hbusy, herr⟩
  simp [exec, execWrCtrlStart, hload, Nat.not_lt.mpr hcount]

/-- 32 bytes loaded into a cleared buffer are its entropy, and MB[32] stays 0x00. -/
theorem State.LoadedWith.mb_eq_push {s t : State} {bs : Vector Byte 32} (h : s.LoadedWith bs.toList t)
    (hmb : s.mb = Vector.replicate 33 0) : t.mb = bs.push 0x00 := by
  apply Vector.ext
  intro k hk
  rw [h.bytes k hk]
  by_cases hlt : k < 32
  · simp [hlt, Vector.getElem_push_lt hlt]
  · obtain rfl : k = 32 := by omega
    simp [hmb]

/-- Settles O47: a CLEAR leaves an empty buffer, the 32 pushes fill it, and START finds it full. -/
theorem load32ThenEncodeStarts : Obligations.Load32ThenEncodeStarts := by
  intro bs s
  obtain ⟨t, hload, hloaded⟩ := execAll_pushes bs.toList (s := s.clearElements) (by simp) rfl rfl rfl
  have hcount : t.entCnt.toNat = 32 := by simpa using hloaded.count
  have hstart : exec .wrCtrlStart t = .next t.beginEncode :=
    exec_wrCtrlStart_of_full hloaded.busy hloaded.errcode hcount.ge
  have hrun : execAll (clearAll ++ load32 bs ++ encodeCmd) s = .next t.beginEncode := by
    have hclear : execAll (clearAll ++ load32 bs) s = .next t := hload
    rw [execAll_append_of_next hclear]
    exact execAll_cons_of_next hstart
  have hmb : t.mb = bs.push 0x00 := hloaded.mb_eq_push rfl
  have hfull : t.entCnt = 32 := BitVec.eq_of_toNat_eq hcount
  rw [hrun, hloaded.frame, hmb, hfull]
  rfl

/-- Writing both halves of an index in turn gives the index, whatever was there (R153, R154). -/
theorem withLow_withHigh (v k : Index) : withLow (withHigh v (k.extractLsb' 8 3)) (lowByte k) = k := by
  apply BitVec.eq_of_toNat_eq
  have hk := k.isLt
  rw [withLow_toNat, withHigh_toNat, lowByte_toNat, BitVec.extractLsb'_toNat, Nat.shiftRight_eq_div_pow]
  omega

theorem execAll_selWord (k : Index) (s : State) : execAll (selWord k) s = .next (s.setWsel k) := by
  have hboth : execAll (selWord k) s = .next (s.setWsel (withLow (withHigh s.wsel (k.extractLsb' 8 3)) (lowByte k))) := rfl
  rw [hboth, withLow_withHigh]

/-- Reads of WCHR return the bytes of the selected word, and change the read data only (R158). -/
theorem readAll_rdWchr (js : List (Fin 16)) (s : State) :
    ∃ b, readAll (js.map .rdWchr) s = some (js.map fun j => paddedByte (rom s.wsel) j.val, s.drive b) := by
  induction js generalizing s with
  | nil => exact ⟨s.rdata, rfl⟩
  | cons j js ih =>
    obtain ⟨b, hb⟩ := ih (s.drive (paddedByte (rom s.wsel) j.val))
    refine ⟨b, ?_⟩
    rw [List.map_cons, readAll_cons_of_next (t := s.drive (paddedByte (rom s.wsel) j.val)) rfl, hb]
    rfl

/-- The first len bytes of a padded word are the word (R151). -/
theorem map_paddedByte_take (w : List Byte) (h : w.length ≤ 16) :
    ((List.finRange 16).take w.length).map (fun j => paddedByte w j.val) = w := by
  apply List.ext_getElem
  · simp [h]
  · intro j _ hj
    simp [paddedByte, hj]

theorem length_rom_le (k : Index) : (rom k).length ≤ 16 := by
  have hlast : (Config.wordLast k).val < 8 := (Config.wordLast k).isLt
  rw [length_rom]
  omega

/-- Settles O48: SELWORD writes both halves of WSEL; GETWORD's reads return the length and then every byte of the entry. -/
theorem selectedWordReadsBack : Obligations.SelectedWordReadsBack := by
  intro k s
  refine ⟨execAll_selWord k s, ?_⟩
  obtain ⟨b, hb⟩ := readAll_rdWchr ((List.finRange 16).take (rom k).length)
    ((s.setWsel k).drive (BitVec.ofNat 8 (rom k).length))
  rw [State.drive_wsel, State.setWsel_wsel, map_paddedByte_take _ (length_rom_le k)] at hb
  refine ⟨(s.setWsel k).drive b, ?_, rfl⟩
  have hlen : exec .rdWlen { s with wsel := k } = .next ((s.setWsel k).drive (BitVec.ofNat 8 (rom k).length)) := rfl
  rw [getWord, readAll_cons_of_next hlen, hb]
  rfl

end Sys2Proof.Machine
end

section
/-! ### Entropy load (40_buffer_load.md): the buffer reads, the push port, and the count of accepted pushes -/

namespace Sys2Proof.Machine

/-! #### The reads -/

/-- Settles O18: the word is RD.MB's own, and under the invariants a byte that was not pushed is 0x00. -/
theorem rdMbReturnsTheBufferByte : Obligations.RdMbReturnsTheBufferByte := by
  intro j s
  have hread : exec (.rdMb j) s = .next { s with rdata := s.mb[j.val] } := rfl
  refine ⟨decodeOfEncodeIsIdentity (.rdMb j) rfl, hread, fun hinv hunpushed => ?_⟩
  rw [hread, hinv.unpushed j.val j.isLt hunpushed]

/-- Settles O19: widening 6 bits to 8 keeps the count's value. -/
theorem rdEntCntReturnsTheCount : Obligations.RdEntCntReturnsTheCount := by
  intro s
  exact ⟨decodeOfEncodeIsIdentity .rdEntCnt rfl, s.drive (s.entCnt.setWidth 8), rfl,
    BitVec.toNat_setWidth_of_le (by decide), rfl⟩

/-- Settles O20: both reads drive 0x00, and nothing else is written. -/
theorem writeOnlyRegistersReadZero : Obligations.WriteOnlyRegistersReadZero := by
  intro s
  exact ⟨decodeOfEncodeIsIdentity .rdEntIn rfl, decodeOfEncodeIsIdentity .rdCtrl rfl, rfl, rfl⟩

/-! #### The push port -/

theorem refusesLoad_eq_true_iff (s : State) : s.refusesLoad = true ↔ s.busy = true ∨ s.errcode ≠ 0 := by
  simp [State.refusesLoad]

theorem exec_wrEntIn_of_refused {s : State} (d : Byte) (h : s.busy = true ∨ s.errcode ≠ 0) :
    exec (.wrEntIn d) s = .next s.flagAccErr := by
  simp [exec, execWrEntIn, (refusesLoad_eq_true_iff s).mpr h]

/-- Below 32 the count has room for one more in its 6 bits (R23). -/
theorem pushByte_entCnt_toNat {s : State} (d : Byte) (h : s.entCnt.toNat < 32) :
    (s.pushByte d).entCnt.toNat = s.entCnt.toNat + 1 := by
  rw [State.pushByte_entCnt]
  bv_omega

/-- Settles O21: a push is refused, finds room, or finds 32 bytes loaded. -/
theorem wrEntInPushesOrRaises : Obligations.WrEntInPushesOrRaises := by
  intro d s
  refine ⟨decodeOfEncodeIsIdentity (.wrEntIn d) rfl, exec_wrEntIn_of_refused d, fun hbusy herr hroom => ?_,
    exec_wrEntIn_of_full d⟩
  exact ⟨s.pushByte d, exec_wrEntIn_of_room d hbusy herr hroom, rfl, pushByte_entCnt_toNat d hroom,
    fun j hj => (pushByte_getElem s d j hj).trans (if_congr eq_comm rfl rfl)⟩

/-! #### The count -/

/-- Of the operations, only an accepted push and a CLEAR write ENT_CNT (R100). -/
theorem Effect.entCnt_cases {i : Instr} {s t : State} (heffect : Effect s i t) :
    (t.entCnt = s.entCnt ∧ i ≠ .wrCtrlClear) ∨
      ((∃ d, i = .wrEntIn d) ∧ s.busy = false ∧ s.errcode = 0 ∧ s.entCnt.toNat < 32 ∧
        t.entCnt.toNat = s.entCnt.toNat + 1) ∨
      (t.entCnt = 0 ∧ i = .wrCtrlClear) := by
  cases heffect with
  | push d hbusy herr hroom => exact .inr (.inl ⟨⟨d, rfl⟩, hbusy, herr, hroom, pushByte_entCnt_toNat d hroom⟩)
  | clear => exact .inr (.inr ⟨rfl, rfl⟩)
  | drive _ hread | refuseRead hread => exact .inl ⟨rfl, by rintro rfl; simp [Instr.isRead] at hread⟩
  | refuseWrite _ hraise => exact .inl ⟨rfl, by rintro rfl; simp [raisesAccErr] at hraise⟩
  | _ => exact .inl ⟨rfl, by simp⟩

/-- A cycle with rst = 0 whose operation is no CLEAR does not cancel an encoding. -/
theorem Cycle.Acts.keeps {c : Cycle} {i : Instr} (h : c.Acts i) (hclear : i ≠ .wrCtrlClear) : c.Keeps := by
  obtain ⟨hrst, -, rfl⟩ | ⟨hrst, hsel, -⟩ := h
  · exact ⟨hrst, fun ⟨_, _, hdecode⟩ => hclear hdecode⟩
  · exact ⟨hrst, fun ⟨_, hsel', _⟩ => by simp [hsel] at hsel'⟩

/-- What a cycle does to ENT_CNT: nothing, one more for an accepted push, or 0 for a CLEAR or a reset (R100). -/
theorem step_entCnt_cases {s t : State} (h : step s = .next t) :
    (t.entCnt = s.entCnt ∧ s.nextCycle.Keeps) ∨
      ((∃ d, s.nextCycle.Issues (.wrEntIn d)) ∧ s.busy = false ∧ s.errcode = 0 ∧ s.entCnt.toNat < 32 ∧
        t.entCnt.toNat = s.entCnt.toNat + 1) ∨
      (t.entCnt = 0 ∧ ¬ s.nextCycle.Keeps) := by
  obtain ⟨hrst, rfl⟩ | ⟨i, u, hacts, heffect, rfl⟩ := step_effect h
  · exact .inr (.inr ⟨rfl, fun ⟨hnot, _⟩ => by simp [hrst] at hnot⟩)
  · rw [engineEdge_entCnt]
    obtain ⟨hcount, hclear⟩ | ⟨⟨d, rfl⟩, hpush⟩ | ⟨hcount, rfl⟩ := heffect.entCnt_cases
    · exact .inl ⟨hcount, hacts.keeps hclear⟩
    · exact .inr (.inl ⟨⟨d, hacts.issues (by simp)⟩, hpush⟩)
    · exact .inr (.inr ⟨hcount, fun hkeeps => hacts.ne_clear hkeeps rfl⟩)

/-- Settles O60: the range follows from the three cases, since an accepted push finds the count below 32. -/
theorem entCntCountsAcceptedPushes : Obligations.EntCntCountsAcceptedPushes := by
  intro s t hstep
  have hcases := step_entCnt_cases hstep
  refine ⟨fun hrange => ?_, hcases⟩
  obtain ⟨hcount, -⟩ | ⟨-, -, -, hroom, hcount⟩ | ⟨hcount, -⟩ := hcases
  · rwa [hcount]
  · omega
  · simp [hcount]

end Sys2Proof.Machine
end

section
/-! ### Encoding (41_encode.md): the lanes, START, the completion, the result reads, and what DONE = 0 hides -/

namespace Sys2Proof.Machine

/-! #### Buffer bits and the lanes -/

/-- Bit j of byte b, counted from its least significant, is at position 8b + 7 - j (R7). -/
theorem bufBit_eq_getLsbD {n : Nat} (data : Vector Byte n) {p b j : Nat} (hb : b < n) (hj : j < 8) (hp : p + j = 8 * b + 7) :
    bufBit data p (by omega) = data[b].getLsbD j := by
  have hbyte : p / 8 = b := by omega
  have hbit : 7 - p % 8 = j := by omega
  simp only [bufBit, hbyte, hbit]

/-- Bit 10-k of lane i is the buffer bit at position 11i+k (R7, R123). -/
theorem getLsbD_lane_eq_bufBit (mb : Vector Byte 33) (i : Fin 24) {k : Nat} (hk : k < 11) :
    (lane mb i).getLsbD (10 - k) = bufBit mb (11 * i.val + k) (by omega) := by
  have hpos : 10 - (10 - k) = k := by omega
  rw [getLsbD_lane mb i (10 - k) (by omega)]
  simp only [hpos]

/-- Lane i holds the bits at the positions p with p div 11 = i, and no other (R123). -/
theorem lane_eq_lane_iff {mb mb' : Vector Byte 33} {i : Fin 24} :
    lane mb i = lane mb' i ↔ ∀ (p : Nat) (hp : p < 8 * 33), p / 11 = i.val → bufBit mb p hp = bufBit mb' p hp := by
  constructor
  · intro h p hp hlane
    have hpos : 11 * i.val + p % 11 = p := by omega
    have hbit := congrArg (·.getLsbD (10 - p % 11)) h
    simpa only [getLsbD_lane_eq_bufBit _ i (Nat.mod_lt p (by decide)), hpos] using hbit
  · intro h
    apply BitVec.eq_of_getLsbD_eq
    intro j hj
    rw [getLsbD_lane mb i j hj, getLsbD_lane mb' i j hj]
    exact h _ _ (by omega)

theorem bufBit_set_last (mb : Vector Byte 33) (c : Byte) (p : Nat) (hp : p < 256) :
    bufBit (mb.set 32 c) p (by omega) = bufBit mb p (by omega) := by
  rw [bufBit, Vector.getElem_set_ne _ _ (by omega), bufBit]

theorem bufBit_flipBit (mb : Vector Byte 33) (p : Nat) (hp : p < 264) (q : Nat) (hq : q < 8 * 33) :
    bufBit (flipBit mb p hp) q hq = (bufBit mb q hq ^^ decide (q = p)) := by
  simp only [bufBit, flipBit, Vector.getElem_set]
  split
  case isTrue hbyte =>
    have hsame : 7 - p % 8 = 7 - q % 8 ↔ q = p := by omega
    have hlt : 7 - q % 8 < 8 := by omega
    rw [BitVec.getLsbD_xor, BitVec.getLsbD_ofNat, Nat.testBit_two_pow]
    simp [hbyte, hlt, hsame]
  case isFalse hbyte =>
    have hne : q ≠ p := fun h => hbyte (h ▸ rfl)
    simp [hne]

/-- Settles O28: of the bits of lane i, the flip changes the one at position p, which is among them if p div 11 = i. -/
theorem eachBufferBitFeedsOneLane : Obligations.EachBufferBitFeedsOneLane := by
  intro mb p hp i
  simp only [lane_eq_lane_iff, bufBit_flipBit]
  constructor
  · intro h hlane
    simpa using h p hp hlane.symm
  · intro hne q _ hlane
    have hqp : q ≠ p := fun h => hne (h ▸ hlane.symm)
    simp [hqp]

/-! #### The lane table -/

theorem getLsbD_slice (v : Byte) (l n k j : Nat) (hj : j < 11) :
    (slice v l n k).getLsbD j = (!decide (j < k) && (decide (j - k < n) && v.getLsbD (l + (j - k)))) := by
  have hlt : j - k < 11 := by omega
  rw [slice, BitVec.getLsbD_shiftLeft, BitVec.getLsbD_setWidth, BitVec.getLsbD_extractLsb']
  simp [hj, hlt]

/-- A lane that begins with the last n bits of byte b and ends in the next byte. -/
theorem lane_of_two_bytes (mb : Vector Byte 33) (i : Fin 24) (b n : Nat) (hb : b + 1 < 33) (hn : 3 ≤ n ∧ n ≤ 8)
    (hstart : 11 * i.val + n = 8 * (b + 1)) :
    lane mb i = slice mb[b] 0 n (11 - n) ||| slice mb[b + 1] (n - 3) (11 - n) 0 := by
  apply BitVec.eq_of_getLsbD_eq
  intro j hj
  rw [getLsbD_lane mb i j hj, BitVec.getLsbD_or, getLsbD_slice _ _ _ _ _ hj, getLsbD_slice _ _ _ _ _ hj]
  by_cases hlow : j < 11 - n
  · rw [bufBit_eq_getLsbD mb hb (j := n - 3 + j) (by omega) (by omega)]
    simp [hlow]
  · rw [bufBit_eq_getLsbD mb (Nat.lt_of_succ_lt hb) (j := j - (11 - n)) (by omega) (by omega)]
    simp [hlow, show j - (11 - n) < n by omega]

/-- A lane that begins with the last n bits of byte b, runs through the next byte, and ends in the one after it. -/
theorem lane_of_three_bytes (mb : Vector Byte 33) (i : Fin 24) (b n : Nat) (hb : b + 2 < 33) (hn : n ≤ 3)
    (hstart : 11 * i.val + n = 8 * (b + 1)) :
    lane mb i = slice mb[b] 0 n (11 - n) ||| slice mb[b + 1] 0 8 (3 - n) ||| slice mb[b + 2] (5 + n) (3 - n) 0 := by
  apply BitVec.eq_of_getLsbD_eq
  intro j hj
  rw [getLsbD_lane mb i j hj, BitVec.getLsbD_or, BitVec.getLsbD_or, getLsbD_slice _ _ _ _ _ hj,
    getLsbD_slice _ _ _ _ _ hj, getLsbD_slice _ _ _ _ _ hj]
  by_cases hlow : j < 3 - n
  · rw [bufBit_eq_getLsbD mb hb (j := 5 + n + j) (by omega) (by omega)]
    simp [hlow, show j < 11 - n by omega]
  · by_cases hmid : j < 11 - n
    · rw [bufBit_eq_getLsbD mb (Nat.lt_of_succ_lt hb) (j := j - (3 - n)) (by omega) (by omega)]
      simp [hlow, hmid, show j - (3 - n) < 8 by omega]
    · rw [bufBit_eq_getLsbD mb (show b < 33 by omega) (j := j - (11 - n)) (by omega) (by omega)]
      simp [hlow, hmid, show j - (11 - n) < n by omega, show ¬ j - (3 - n) < 8 by omega]

/-- Row 8m + r of the lane table: eight lanes are 88 bits, so the rows repeat with a shift of 11 bytes (R125). -/
def laneRow (mb : Vector Byte 33) (m : Fin 3) : Fin 8 → Index
  | 0 => slice mb[11 * m.val] 0 8 3 ||| slice mb[11 * m.val + 1] 5 3 0
  | 1 => slice mb[11 * m.val + 1] 0 5 6 ||| slice mb[11 * m.val + 2] 2 6 0
  | 2 => slice mb[11 * m.val + 2] 0 2 9 ||| slice mb[11 * m.val + 3] 0 8 1 ||| slice mb[11 * m.val + 4] 7 1 0
  | 3 => slice mb[11 * m.val + 4] 0 7 4 ||| slice mb[11 * m.val + 5] 4 4 0
  | 4 => slice mb[11 * m.val + 5] 0 4 7 ||| slice mb[11 * m.val + 6] 1 7 0
  | 5 => slice mb[11 * m.val + 6] 0 1 10 ||| slice mb[11 * m.val + 7] 0 8 2 ||| slice mb[11 * m.val + 8] 6 2 0
  | 6 => slice mb[11 * m.val + 8] 0 6 5 ||| slice mb[11 * m.val + 9] 3 5 0
  | 7 => slice mb[11 * m.val + 9] 0 3 8 ||| slice mb[11 * m.val + 10] 0 8 0

theorem laneTable_eq_rows (mb : Vector Byte 33) :
    laneTable mb = (List.finRange 3).flatMap fun m => (List.finRange 8).map (laneRow mb m) := rfl

theorem toList_lanes_eq_blocks (mb : Vector Byte 33) :
    (lanes mb).toList =
      (List.finRange 3).flatMap fun m => (List.finRange 8).map fun r => lane mb ⟨8 * m.val + r.val, by omega⟩ := by
  rw [lanes, Vector.toList_ofFn]
  rfl

/-- Each row names the bytes that its lane begins and ends in. -/
theorem laneRow_eq_lane (mb : Vector Byte 33) (m : Fin 3) (r : Fin 8) :
    laneRow mb m r = lane mb ⟨8 * m.val + r.val, by omega⟩ := by
  have hm := m.isLt
  match r with
  | 0 => exact (lane_of_two_bytes mb _ (11 * m.val) 8 (by omega) (by decide) (by dsimp; omega)).symm
  | 1 => exact (lane_of_two_bytes mb _ (11 * m.val + 1) 5 (by omega) (by decide) (by dsimp; omega)).symm
  | 2 => exact (lane_of_three_bytes mb _ (11 * m.val + 2) 2 (by omega) (by decide) (by dsimp; omega)).symm
  | 3 => exact (lane_of_two_bytes mb _ (11 * m.val + 4) 7 (by omega) (by decide) (by dsimp; omega)).symm
  | 4 => exact (lane_of_two_bytes mb _ (11 * m.val + 5) 4 (by omega) (by decide) (by dsimp; omega)).symm
  | 5 => exact (lane_of_three_bytes mb _ (11 * m.val + 6) 1 (by omega) (by decide) (by dsimp; omega)).symm
  | 6 => exact (lane_of_two_bytes mb _ (11 * m.val + 8) 6 (by omega) (by decide) (by dsimp; omega)).symm
  | 7 => exact (lane_of_two_bytes mb _ (11 * m.val + 9) 3 (by omega) (by decide) (by dsimp; omega)).symm

/-- Settles O27: three blocks of eight rows, each row its lane. -/
theorem lanesAreTheLaneTable : Obligations.LanesAreTheLaneTable := by
  intro mb
  have hrow (m : Fin 3) : laneRow mb m = fun r => lane mb ⟨8 * m.val + r.val, by omega⟩ := funext (laneRow_eq_lane mb m)
  simp only [toList_lanes_eq_blocks, laneTable_eq_rows, hrow]

/-! #### The checksum byte, and the completion for every hash -/

theorem idxOfBytes_toNat (hi lo : Byte) : (idxOfBytes hi lo).toNat = hi.toNat % 8 * 256 + lo.toNat := by
  rw [idxOfBytes, BitVec.toNat_append, BitVec.extractLsb'_toNat, ← Nat.shiftLeft_add_eq_or_of_lt lo.isLt,
    Nat.shiftLeft_eq]
  rfl

theorem idxOfBytes_highByte_lowByte (v : Index) : idxOfBytes (highByte v) (lowByte v) = v := by
  apply BitVec.eq_of_toNat_eq
  have hv := v.isLt
  rw [idxOfBytes_toNat, highByte_toNat, lowByte_toNat]
  omega

/-- The last lane is MB[31][2:0] above the checksum byte (R126). -/
theorem lane_last (mb : Vector Byte 33) : lane mb 23 = idxOfBytes mb[31] mb[32] := by
  apply BitVec.eq_of_getLsbD_eq
  intro j hj
  rw [lane_of_two_bytes mb 23 31 3 (by decide) (by decide) rfl, BitVec.getLsbD_or, getLsbD_slice _ _ _ _ _ hj,
    getLsbD_slice _ _ _ _ _ hj, idxOfBytes, BitVec.getLsbD_append, BitVec.getLsbD_extractLsb']
  by_cases hlow : j < 8
  · simp [hlow]
  · simp [hlow, show j - 8 < 3 by omega]

/-- Settles O29: the last lane by its two bytes; the others end before the checksum byte, at position 256. -/
theorem checksumReachesOnlyTheLastLane : Obligations.ChecksumReachesOnlyTheLastLane := by
  intro mb c
  refine ⟨?_, fun i hi => ?_⟩
  · simp [lane_last, idxOfBytes_toNat]
  · rw [lane_eq_lane_iff]
    intro p _ hlane
    exact bufBit_set_last mb c p (by omega)

theorem completeWith_mb (H : Vector Byte 32 → Vector Byte 32) (s : State) :
    (completeWith H s).mb = s.mb.set 32 (checksum H s.mb) := rfl

theorem completeWith_idx (H : Vector Byte 32 → Vector Byte 32) (s : State) :
    (completeWith H s).idx = lanes (completeWith H s).mb := rfl

/-- The buffer after a completion is a function of the entropy (R131). -/
theorem completeWith_mb_eq_of_entropy_eq (H : Vector Byte 32 → Vector Byte 32) {s t : State}
    (h : ∀ (j : Nat) (_ : j < 32), s.mb[j] = t.mb[j]) : (completeWith H s).mb = (completeWith H t).mb := by
  have hentropy : entropy s.mb = entropy t.mb := by
    apply Vector.ext
    intro j hj
    simpa using h j hj
  apply Vector.ext
  intro j hj
  rw [completeWith_mb, completeWith_mb, checksum, checksum, hentropy, Vector.getElem_set, Vector.getElem_set]
  split
  case isTrue => rfl
  case isFalse hne => exact h j (by omega)

/-- A completion leaves the entropy's bits, and so the bits of the lanes that hold them. -/
theorem completeWith_idx_ne_of_bufBit_ne (H : Vector Byte 32 → Vector Byte 32) {s t : State} {p : Nat} (hp : p < 256)
    (h : bufBit s.mb p (by omega) ≠ bufBit t.mb p (by omega)) :
    (completeWith H s).idx[p / 11] ≠ (completeWith H t).idx[p / 11] := by
  simp only [completeWith_idx, completeWith_mb, getElem_lanes, ne_eq, lane_eq_lane_iff]
  intro hbits
  have hbit := hbits p (by omega) rfl
  rw [bufBit_set_last _ _ _ hp, bufBit_set_last _ _ _ hp] at hbit
  exact h hbit

/-- Settles O30: the results are a function of the entropy, and lane p div 11 holds the bit at position p. -/
theorem encodingIsDeterministicAndSensitive : Obligations.EncodingIsDeterministicAndSensitive := by
  intro H
  refine ⟨fun s t h => ?_, fun s i hi => ?_, fun s p hp => ?_⟩
  · have hmb := completeWith_mb_eq_of_entropy_eq H h
    exact ⟨by simp only [hmb], by rw [completeWith_idx, completeWith_idx, hmb]⟩
  · have hlt := ((completeWith H s).idx[i]).isLt
    omega
  · apply completeWith_idx_ne_of_bufBit_ne H hp
    simp [bufBit_flipBit]

/-! #### The completion's cycle -/

/-- An idle cycle at whose edge the engine is due (R127). -/
theorem step_of_idle_due {s : State} (hrst : s.nextCycle.rst = false) (hsel : s.nextCycle.sel = false)
    (hfire : s.nextCycle.fire = true) (hbusy : s.busy = true) : step s = .next (encComplete s.beginCycle) := by
  rw [step_of_idle hrst hsel, engineEdge_of_due hfire hbusy (s := s.beginCycle) hbusy]

/-- The phrase has at least its 24 separators and newline, so PTR = 0 is not its end (R170, R171). -/
theorem pend_eq_false_of_ptr_eq_zero {s : State} (h : s.ptr = 0) : s.pend = false := by
  have hlen : s.plen ≠ 0 := by
    rw [State.plen, State.phrase, length_phraseOf]
    omega
  simp [State.pend, h, hlen.symm]

/-- Settles O13: with BUSY = 1 the edge is the completion, which stores the lanes of the buffer it leaves; else it is idle. -/
theorem completionStoresChecksumAndIndices : Obligations.CompletionStoresChecksumAndIndices := by
  intro s hrst hsel hfire
  refine ⟨fun hbusy => ?_, fun hidle => ?_⟩
  · refine ⟨encComplete s.beginCycle, step_of_idle_due hrst hsel hfire hbusy, rfl, fun i k hi hk => ?_,
      pend_eq_false_of_ptr_eq_zero rfl⟩
    have hidx : (encComplete s.beginCycle).idx = lanes (encComplete s.beginCycle).mb := completeWith_idx hash s.beginCycle
    simp only [hidx, getElem_lanes]
    exact getLsbD_lane_eq_bufBit _ ⟨i, hi⟩ hk
  · rw [idleCycleKeepsEveryElement s hrst hsel fun _ => hidle]

/-- Settles O14: where no input is left the cycle is idle and a completion is chosen. -/
theorem busyEngineCompletesWhenInputsEnd : Obligations.BusyEngineCompletesWhenInputsEnd := by
  intro s hinputs hbusy
  have hcycle : s.nextCycle = quietCycle := nextCycle_of_nil hinputs
  refine ⟨encComplete s.beginCycle, ?_, rfl, rfl, ?_⟩
  · exact step_of_idle_due (by rw [hcycle]; rfl) (by rw [hcycle]; rfl) (by rw [hcycle]; rfl) hbusy
  · rw [encComplete_eq, State.storeResults_inputs, State.beginCycle_inputs, hinputs, List.tail_nil]

/-! #### START -/

theorem exec_wrCtrlStart_of_refused {s : State} (h : s.busy = true ∨ s.errcode ≠ 0) :
    exec .wrCtrlStart s = .next s.flagAccErr := by
  simp [exec, execWrCtrlStart, (refusesLoad_iff s).mpr h]

theorem exec_wrCtrlStart_of_short {s : State} (hbusy : s.busy = false) (herr : s.errcode = 0)
    (hcount : s.entCnt.toNat < 32) : exec .wrCtrlStart s = .next (s.raiseLen lenShort) := by
  have hload : s.refusesLoad = false := (refusesLoad_eq_false_iff s).mpr ⟨hbusy, herr⟩
  simp [exec, execWrCtrlStart, hload, hcount]

/-- Encoding a finished buffer again stores the results that are there (R121). -/
theorem State.Inv.encComplete_beginEncode {s : State} (h : s.Inv) (hdone : s.done = true) :
    Machine.encComplete s.beginEncode = { s with ptr := 0 } := by
  obtain ⟨-, hbusy, -⟩ := h.done_excludes hdone
  obtain ⟨hsum, hidx⟩ := h.results hdone
  have hmb : s.mb.set 32 (checksum hash s.mb) = s.mb := by rw [← hsum, Vector.set_getElem_self]
  rw [encComplete_eq, State.beginEncode_mb, hmb, ← hidx]
  simp [State.storeResults, State.beginEncode, hmb, hbusy, hdone]

/-- Settles O23: a START is refused, finds too few bytes, or finds 32. -/
theorem wrCtrlStartBeginsOrRaises : Obligations.WrCtrlStartBeginsOrRaises := by
  refine ⟨fun d hclear hstart => by rw [ctrlCommandPriority d, hclear, hstart]; rfl, fun s => ?_⟩
  refine ⟨exec_wrCtrlStart_of_refused, exec_wrCtrlStart_of_short, exec_wrCtrlStart_of_full, fun hinv hdone => ?_⟩
  obtain ⟨hfull, hbusy, herr⟩ := hinv.done_excludes hdone
  exact ⟨s.beginEncode, exec_wrCtrlStart_of_full hbusy herr (by simp [hfull]), rfl, hinv.encComplete_beginEncode hdone⟩

/-! #### The result reads -/

/-- Settles O24: the read is gated by DONE. -/
theorem rdCsumIsGatedByDone : Obligations.RdCsumIsGatedByDone := by
  intro s
  exact ⟨decodeOfEncodeIsIdentity .rdCsum rfl, fun h => congrArg Host.Outcome.next (gatedRead_of_done _ h),
    fun h => congrArg Host.Outcome.next (gatedRead_of_not_done _ h)⟩

theorem exec_rdIdxHi_of_done (i : Fin 24) {s : State} (h : s.done = true) :
    exec (.rdIdxHi i) s = .next (s.drive (highByte s.idx[i.val])) :=
  congrArg Host.Outcome.next (gatedRead_of_done _ h)

theorem exec_rdIdxLo_of_done (i : Fin 24) {s : State} (h : s.done = true) :
    exec (.rdIdxLo i) s = .next (s.drive (lowByte s.idx[i.val])) :=
  congrArg Host.Outcome.next (gatedRead_of_done _ h)

/-- GETIDX while DONE = 1: the low read finds the state the high read found, but for the read data (R90). -/
theorem readAll_getIdx_of_done (i : Fin 24) {s : State} (h : s.done = true) :
    readAll (getIdx i) s =
      some ([highByte s.idx[i.val], lowByte s.idx[i.val]], s.drive (lowByte s.idx[i.val])) := by
  have hlow : exec (.rdIdxLo i) (s.drive (highByte s.idx[i.val])) = .next (s.drive (lowByte s.idx[i.val])) :=
    (exec_drive_of_isRead s _ rfl).trans (exec_rdIdxLo_of_done i h)
  rw [getIdx, readAll_cons_of_next (exec_rdIdxHi_of_done i h), readAll_cons_of_next hlow]
  rfl

/-- The high byte of a pair has no bit above the index's three (R55). -/
theorem extractLsb'_highByte (v : Index) : (highByte v).extractLsb' 3 5 = 0 := by
  apply BitVec.eq_of_toNat_eq
  have hhigh : v.toNat / 256 / 2 ^ 3 = 0 := by omega
  rw [BitVec.extractLsb'_toNat, highByte_toNat, Nat.shiftRight_eq_div_pow, hhigh]
  rfl

/-- Settles O25: both reads are gated by DONE, and the two bytes hold all 11 bits of the index. -/
theorem rdIdxPairIsGatedByDone : Obligations.RdIdxPairIsGatedByDone := by
  intro i s
  refine ⟨decodeOfEncodeIsIdentity (.rdIdxHi i) rfl, decodeOfEncodeIsIdentity (.rdIdxLo i) rfl, fun hdone => ?_,
    fun hdone => ?_⟩
  · exact ⟨highByte s.idx[i.val], lowByte s.idx[i.val], exec_rdIdxHi_of_done i hdone, exec_rdIdxLo_of_done i hdone,
      highByte_toNat _, lowByte_toNat _, extractLsb'_highByte _, readAll_getIdx_of_done i hdone,
      idxOfBytes_highByte_lowByte _⟩
  · exact ⟨congrArg Host.Outcome.next (gatedRead_of_not_done _ hdone),
      congrArg Host.Outcome.next (gatedRead_of_not_done _ hdone)⟩

/-! #### What DONE = 0 hides (I12) -/

/-- The state with other results: c in MB[32] and v in IDX. -/
def State.withResults (s : State) (c : Byte) (v : Vector Index 24) : State := { s with mb := s.mb.set 32 c, idx := v }

section WithResults
variable {s : State} (c : Byte) (v : Vector Index 24)

/-- A push stores below MB[32], so it commutes with a change of the results. -/
theorem pushByte_withResults (d : Byte) (hcount : s.entCnt.toNat < 32) :
    (s.withResults c v).pushByte d = (s.pushByte d).withResults c v := by
  have hmb : (s.mb.set 32 c).setIfInBounds s.entCnt.toNat d = (s.mb.setIfInBounds s.entCnt.toNat d).set 32 c := by
    apply Vector.ext
    intro j hj
    simp only [Vector.getElem_setIfInBounds hj, Vector.getElem_set]
    split_ifs with hpushed hlast
    · omega
    · rfl
    · rfl
    · rfl
  simp only [State.withResults, State.pushByte, hmb]

theorem status_withResults (hdone : s.done = false) : (s.withResults c v).status = s.status := by
  simp [State.status, State.pend, State.err, State.withResults, hdone]

theorem gatedRead_withResults (f : State → Byte) (hdone : s.done = false) :
    gatedRead f (s.withResults c v) = (gatedRead f s).withResults c v := by
  rw [gatedRead_of_not_done f hdone, gatedRead_of_not_done f (s := s.withResults c v) hdone]
  rfl

/-- While DONE = 0 no operation looks at the results: it does the same whatever they are, and leaves them, but for a CLEAR,
which gives them their reset values. -/
theorem exec_withResults (i : Instr) (hclear : i ≠ .wrCtrlClear) (hdone : s.done = false) :
    exec i (s.withResults c v) = afterBus (·.withResults c v) (exec i s) := by
  cases i with
  | rdMb j =>
    have hbyte : (s.mb.set 32 c)[j.val] = s.mb[j.val] := Vector.getElem_set_ne _ _ (by omega)
    exact congrArg (fun b => Host.Outcome.next ((s.withResults c v).drive b)) hbyte
  | rdStatus => exact congrArg (fun b => Host.Outcome.next ((s.withResults c v).drive b)) (status_withResults c v hdone)
  | rdCsum | rdIdxHi _ | rdIdxLo _ => exact congrArg Host.Outcome.next (gatedRead_withResults c v _ hdone)
  | rdPhrData => simp [exec, execRdPhrData, afterBus, State.withResults, State.flagAccErr, State.drive, hdone]
  | wrCtrlClear => exact absurd rfl hclear
  | wrCtrlStart =>
    have hload : (s.withResults c v).refusesLoad = s.refusesLoad := rfl
    have hcount : (s.withResults c v).entCnt = s.entCnt := rfl
    simp only [exec, execWrCtrlStart, hload, hcount]
    split_ifs <;> rfl
  | wrEntIn d =>
    have hload : (s.withResults c v).refusesLoad = s.refusesLoad := rfl
    have hcount : (s.withResults c v).entCnt = s.entCnt := rfl
    simp only [exec, execWrEntIn, hload, hcount]
    split_ifs with _ hroom
    · rfl
    · rw [pushByte_withResults c v d hroom, afterBus]
    · rfl
  | _ => rfl

/-- The completion overwrites the results, and does not look at them (R122, R127). -/
theorem encComplete_withResults : encComplete (s.withResults c v) = encComplete s := by
  simp [encComplete_eq, State.withResults, State.storeResults, checksum]

end WithResults

/-- The two states are equal, or differ in the results alone, with DONE = 0. -/
def State.SameButResults (s t : State) : Prop := t = s ∨ s.done = false ∧ ∃ c v, t = s.withResults c v

/-- DONE is set by the engine alone (R26). -/
theorem Effect.done_eq_false {i : Instr} {s t : State} (heffect : Effect s i t) (hdone : s.done = false) :
    t.done = false := by
  cases heffect with
  | clear | tooLong | tooShort | start => rfl
  | _ => exact hdone

section SameButResults
variable {s t : State}

theorem State.SameButResults.rdata (h : s.SameButResults t) : t.rdata = s.rdata := by
  obtain rfl | ⟨-, c, v, rfl⟩ := h <;> rfl

theorem State.SameButResults.busy (h : s.SameButResults t) : t.busy = s.busy := by
  obtain rfl | ⟨-, c, v, rfl⟩ := h <;> rfl

theorem State.SameButResults.nextCycle (h : s.SameButResults t) : t.nextCycle = s.nextCycle := by
  obtain rfl | ⟨-, c, v, rfl⟩ := h <;> rfl

theorem State.SameButResults.beginCycle (h : s.SameButResults t) : s.beginCycle.SameButResults t.beginCycle := by
  obtain rfl | ⟨hdone, c, v, rfl⟩ := h
  · exact .inl rfl
  · exact .inr ⟨hdone, c, v, rfl⟩

theorem State.SameButResults.resetEdge (h : s.SameButResults t) : t.resetEdge = s.resetEdge := by
  obtain rfl | ⟨-, c, v, rfl⟩ := h <;> rfl

theorem State.SameButResults.exec (h : s.SameButResults t) {i : Instr} {u : State} (hexec : exec i s = .next u) :
    ∃ u', Machine.exec i t = .next u' ∧ u.SameButResults u' := by
  obtain rfl | ⟨hdone, c, v, rfl⟩ := h
  · exact ⟨u, hexec, .inl rfl⟩
  · by_cases hclear : i = .wrCtrlClear
    · subst hclear
      exact ⟨u, hexec, .inl rfl⟩
    · refine ⟨u.withResults c v, ?_, .inr ⟨(effect_of_exec hexec).done_eq_false hdone, c, v, rfl⟩⟩
      rw [exec_withResults c v i hclear hdone, hexec, afterBus]

theorem State.SameButResults.engineEdge (h : s.SameButResults t) (fire was : Bool) :
    (engineEdge fire was s).SameButResults (Machine.engineEdge fire was t) := by
  obtain rfl | ⟨hdone, c, v, rfl⟩ := h
  · exact .inl rfl
  · obtain ⟨hfire, hwas, hbusy, hedge⟩ | ⟨hquiet, hedge⟩ := engineEdge_cases fire was s
    · rw [hedge, engineEdge_of_due hfire hwas (s := s.withResults c v) hbusy, encComplete_withResults]
      exact .inl rfl
    · rw [hedge, engineEdge_of_quiet (s := s.withResults c v) hquiet]
      exact .inr ⟨hdone, c, v, rfl⟩

theorem State.SameButResults.step {s' : State} (h : s.SameButResults t) (hstep : step s = .next s') :
    ∃ t', Machine.step t = .next t' ∧ s'.SameButResults t' := by
  obtain ⟨hrst, rfl⟩ | ⟨hrst, hsel, rfl⟩ | ⟨hrst, hsel, u, hu, rfl⟩ := step_cases hstep
  · exact ⟨_, step_of_rst (by rwa [h.nextCycle]), .inl h.beginCycle.resetEdge⟩
  · refine ⟨_, step_of_idle (by rwa [h.nextCycle]) (by rwa [h.nextCycle]), ?_⟩
    rw [h.nextCycle, h.busy]
    exact h.beginCycle.engineEdge _ _
  · obtain ⟨u', hu', hsame⟩ := h.beginCycle.exec hu
    refine ⟨Machine.engineEdge s.nextCycle.fire s.busy u', ?_, hsame.engineEdge _ _⟩
    rw [step_of_bus (by rwa [h.nextCycle]) (by rwa [h.nextCycle]), h.nextCycle, h.busy, hu', afterBus]

/-- Any number of cycles keeps two such states such. -/
theorem State.SameButResults.run (n : Nat) (h : s.SameButResults t) {s' t' : State}
    (hs : Host.Core.run core n s = .next s') (ht : Host.Core.run core n t = .next t') : s'.SameButResults t' := by
  induction n generalizing s t with
  | zero =>
    cases hs
    cases ht
    exact h
  | succ n ih =>
    obtain ⟨s₁, hs₁⟩ := exists_step_eq_next s
    obtain ⟨t₁, ht₁, h₁⟩ := h.step hs₁
    rw [run_succ_of_next hs₁] at hs
    rw [run_succ_of_next ht₁] at ht
    exact ih h₁ hs ht

end SameButResults

/-- Settles O34: the two runs stay in states that differ in the results alone, until a CLEAR, a reset or a completion makes
them equal. -/
theorem unfinishedResultsAreUnobservable : Obligations.UnfinishedResultsAreUnobservable := by
  intro s c v n s' t' hdone hs ht
  have hstart : s.SameButResults (s.withResults c v) := .inr ⟨hdone, c, v, rfl⟩
  exact (hstart.run n hs ht).rdata

end Sys2Proof.Machine
end

section
/-! ### The word ROM and its lookup port (42_wordrom.md): the allowed words, the build from an asset, the port's
operations -/

namespace Sys2Proof.Machine

/-! #### The allowed words -/

theorem wordByteOk_iff (b : Byte) : wordByteOk b = true ↔ b ≠ 0x00 ∧ b ≠ 0x20 ∧ b ≠ 0x0A := by
  simp [wordByteOk, and_assoc]

theorem wordOk_iff (w : List Byte) :
    wordOk w = true ↔
      1 ≤ w.length ∧ w.length ≤ Config.wmax ∧ ∀ b ∈ w, b ≠ 0x00 ∧ b ≠ 0x20 ∧ b ≠ 0x0A := by
  simp only [wordOk, Bool.and_eq_true, decide_eq_true_eq, List.all_eq_true, wordByteOk_iff, and_assoc]

/-- Whatever its length and codes, a ROM entry is an allowed word (R150, R151). -/
theorem wordOk_wordOf (last : Fin Config.wmax) (chars : Fin Config.wmax → Fin 253) :
    wordOk (wordOf last chars) = true := by
  rw [wordOk_iff, length_wordOf]
  refine ⟨Nat.succ_pos _, last.isLt, fun b hb => ?_⟩
  obtain ⟨j, -, rfl⟩ := List.mem_map.mp hb
  exact (wordByteOk_iff _).mp (wordByteOk_charByte _)

theorem wordOk_rom (k : Index) : wordOk (rom k) = true := wordOk_wordOf _ _

/-- The code of an allowed byte: its place among the 253, in rising order. -/
def charCode (b : Byte) : Fin 253 :=
  Fin.ofNat 253 (if b < 0x0A then b.toNat - 1 else if b < 0x20 then b.toNat - 2 else b.toNat - 3)

theorem charByte_charCode : ∀ b : Byte, wordByteOk b = true → charByte (charCode b) = b := by decide

/-- The byte codes of a word, each from its place in the ROM entry. -/
def charCodes (w : List Byte) (j : Fin Config.wmax) : Fin 253 := charCode (paddedByte w j.val)

/-- An allowed word is the ROM entry of its own length and codes. -/
theorem wordOf_charCodes {w : List Byte} (h : wordOk w = true) (last : Fin Config.wmax)
    (hlast : last.val + 1 = w.length) : wordOf last (charCodes w) = w := by
  obtain ⟨-, -, hbytes⟩ := (wordOk_iff w).mp h
  apply List.ext_getElem
  · rw [length_wordOf, hlast]
  · intro j _ hj
    have hbyte : charByte (charCode w[j]) = w[j] :=
      charByte_charCode _ ((wordByteOk_iff _).mpr (hbytes _ (List.getElem_mem hj)))
    simpa [wordOf, charCodes, paddedByte, hj] using hbyte

/-- Settles O36: every code stands for an allowed byte, and every allowed byte has a code. -/
theorem romEntriesAreExactlyTheAllowedWords : Obligations.RomEntriesAreExactlyTheAllowedWords := by
  refine ⟨fun k => (wordOk_iff _).mp (wordOk_rom k), fun w => ⟨fun h => ?_, ?_⟩⟩
  · obtain ⟨hpos, hmax, -⟩ := (wordOk_iff w).mp h
    exact ⟨⟨w.length - 1, by omega⟩, charCodes w, wordOf_charCodes h _ (Nat.sub_add_cancel hpos)⟩
  · rintro ⟨last, chars, rfl⟩
    exact wordOk_wordOf last chars

/-! #### The build from an asset -/

/-- The model's split is the library's (R150, log entry 15). -/
theorem splitLines_eq_splitOn (asset : List Byte) : splitLines asset = asset.splitOn 0x0A := by
  induction asset with
  | nil => rw [splitLines, List.splitOn_nil]
  | cons b bs ih =>
    rw [splitLines, List.splitOn_cons_eq_if_modifyHead, ← ih]
    obtain ⟨l, ls, hlines⟩ : ∃ l ls, splitLines bs = l :: ls := by
      rw [ih]
      exact List.exists_cons_of_ne_nil (List.splitOn_ne_nil _ _)
    simp [hlines]

/-- A separator is in none of the parts it splits a list into. -/
theorem not_mem_of_mem_splitOn {α : Type} [BEq α] [LawfulBEq α] {a : α} {xs l : List α} (h : l ∈ xs.splitOn a) :
    a ∉ l := by
  induction xs generalizing l with
  | nil =>
    obtain rfl : l = [] := by simpa using h
    exact List.not_mem_nil
  | cons x xs ih =>
    obtain ⟨part, parts, hparts⟩ := List.exists_cons_of_ne_nil (List.splitOn_ne_nil a xs)
    rw [List.splitOn_cons_eq_if_modifyHead, hparts] at h
    rw [hparts] at ih
    split at h
    case isTrue =>
      obtain rfl | hl := List.mem_cons.mp h
      · exact List.not_mem_nil
      · exact ih hl
    case isFalse hx =>
      obtain rfl | hl := List.mem_cons.mp h
      · have hne : a ≠ x := fun hax => hx (beq_iff_eq.mpr hax.symm)
        simp [hne, ih List.mem_cons_self]
      · exact ih (List.mem_cons_of_mem _ hl)

theorem romOfLines_of_few {lines : List (List Byte)} (h : lines.length < 2048) :
    romOfLines lines = .error .tooFewLines := if_pos h

theorem romOfLines_eq_ok_iff (lines entries : List (List Byte)) :
    romOfLines lines = .ok entries ↔
      2048 ≤ lines.length ∧ entries = lines.take 2048 ∧ ∀ w ∈ entries, wordOk w = true := by
  by_cases hfew : lines.length < 2048
  · simp [romOfLines_of_few hfew, Nat.not_le.mpr hfew]
  · rw [romOfLines, if_neg hfew]
    split
    case isTrue hall =>
      rw [List.all_eq_true] at hall
      constructor
      · rintro ⟨⟩
        exact ⟨Nat.not_lt.mp hfew, rfl, hall⟩
      · rintro ⟨-, rfl, -⟩
        rfl
    case isFalse hbad =>
      rw [List.all_eq_true] at hbad
      constructor
      · rintro ⟨⟩
      · rintro ⟨-, rfl, hall⟩
        exact absurd hall hbad

/-- Settles O37: the lines are the library's split at 0x0A, and the build takes the first 2048 where all of them are
allowed words. -/
theorem romIsBuiltFromTheFirstLines : Obligations.RomIsBuiltFromTheFirstLines := by
  intro asset
  refine ⟨?_, fun l hl => ?_, romOfLines_of_few, fun entries => ?_⟩
  · rw [splitLines_eq_splitOn, List.intercalate_splitOn]
  · exact not_mem_of_mem_splitOn (splitLines_eq_splitOn asset ▸ hl)
  · simp only [buildRom, romOfLines_eq_ok_iff, wordOk_iff]

/-! #### The port's reads -/

theorem paddedByte_of_lt {w : List Byte} {j : Nat} (h : j < w.length) : paddedByte w j = w[j] := by
  simp [paddedByte, h]

theorem paddedByte_of_ge {w : List Byte} {j : Nat} (h : w.length ≤ j) : paddedByte w j = 0x00 := by
  simp [paddedByte, h]

/-- An allowed word has no 0x00, so a padded one reads 0x00 exactly past its end (R158). -/
theorem paddedByte_eq_zero_iff {w : List Byte} (h : wordOk w = true) (j : Nat) :
    paddedByte w j = 0x00 ↔ w.length ≤ j := by
  refine ⟨fun hzero => ?_, paddedByte_of_ge⟩
  by_contra hlt
  obtain ⟨-, -, hbytes⟩ := (wordOk_iff w).mp h
  rw [paddedByte_of_lt (Nat.not_le.mp hlt)] at hzero
  exact (hbytes _ (List.getElem_mem _)).1 hzero

/-- Settles O41: the byte of the padded entry, which is an allowed word. -/
theorem rdWchrReturnsTheWordByte : Obligations.RdWchrReturnsTheWordByte := by
  intro j s
  have hok : wordOk (rom s.wsel) = true := wordOk_rom s.wsel
  obtain ⟨-, hmax, -⟩ := (wordOk_iff _).mp hok
  exact ⟨decodeOfEncodeIsIdentity (.rdWchr j) rfl, paddedByte (rom s.wsel) j.val, rfl, paddedByte_of_lt,
    paddedByte_eq_zero_iff hok j.val, fun hj => paddedByte_of_ge (hmax.trans hj)⟩

/-- Settles O39: the two bytes of WSEL, high and low. -/
theorem rdWselReturnsOneHalf : Obligations.RdWselReturnsOneHalf := by
  intro s
  exact ⟨decodeOfEncodeIsIdentity .rdWselHi rfl, decodeOfEncodeIsIdentity .rdWselLo rfl,
    ⟨s.drive (highByte s.wsel), rfl, rfl, highByte_toNat s.wsel⟩, s.drive (lowByte s.wsel), rfl, rfl,
    lowByte_toNat s.wsel⟩

/-- Settles O40: the length of an allowed word fits a byte, and is 1 to WMAX. -/
theorem rdWlenReturnsTheWordLength : Obligations.RdWlenReturnsTheWordLength := by
  intro s
  obtain ⟨hpos, hmax, -⟩ := (wordOk_iff _).mp (wordOk_rom s.wsel)
  have hlen : (BitVec.ofNat 8 (rom s.wsel).length).toNat = (rom s.wsel).length :=
    Nat.mod_eq_of_lt (hmax.trans_lt (by decide))
  exact ⟨decodeOfEncodeIsIdentity .rdWlen rfl, s.drive (BitVec.ofNat 8 (rom s.wsel).length), rfl, rfl, hlen,
    hpos.trans_eq hlen.symm, hlen.trans_le hmax⟩

/-! #### The port's writes, and its independence of the encoder -/

/-- Settles O38: each write is decoded from its data byte, and keeps the other half. -/
theorem wrWselSetsOneHalf : Obligations.WrWselSetsOneHalf := by
  intro s
  have hhigh (d : BitVec 3) : ∃ t, exec (.wrWselHi d) s = .next t ∧ t = { s with wsel := t.wsel } ∧
      t.wsel.toNat = d.toNat * 256 + s.wsel.toNat % 256 :=
    ⟨s.setWsel (withHigh s.wsel d), rfl, rfl, withHigh_toNat s.wsel d⟩
  have hlow (d : Byte) : ∃ t, exec (.wrWselLo d) s = .next t ∧ t = { s with wsel := t.wsel } ∧
      t.wsel.toNat = s.wsel.toNat / 256 * 256 + d.toNat :=
    ⟨s.setWsel (withLow s.wsel d), rfl, rfl, withLow_toNat s.wsel d⟩
  refine ⟨fun d => ?_, fun d => ?_, hhigh, hlow⟩
  · have hdecode : decode (0x14600#17 ||| d.setWidth 17) = .wrWselHi (d.extractLsb' 0 3) :=
      (congrArg decode (tword_or_data true 0x46 d)).trans (decode_wrWselHi d)
    have hbits : (d.extractLsb' 0 3).toNat = d.toNat % 8 := by simp [BitVec.extractLsb'_toNat]
    rw [hdecode, ← hbits]
    exact hhigh _
  · have hdecode : decode (0x14700#17 ||| d.setWidth 17) = .wrWselLo d :=
      (congrArg decode (tword_or_data true 0x47 d)).trans (decode_wrWselLo d)
    rw [hdecode]
    exact hlow d

/-- Each operation of the lookup port drives a byte, or writes a WSEL, that is a function of WSEL alone (R159). -/
theorem exec_lookup_cases {i : Instr} (h : isLookup i = true) :
    (∃ f : Index → Byte, ∀ s, exec i s = .next (s.drive (f s.wsel))) ∨
      (i.isRead = false ∧ ∃ g : Index → Index, ∀ s, exec i s = .next (s.setWsel (g s.wsel))) := by
  cases i with
  | rdWselHi => exact .inl ⟨highByte, fun _ => rfl⟩
  | rdWselLo => exact .inl ⟨lowByte, fun _ => rfl⟩
  | rdWlen => exact .inl ⟨fun v => BitVec.ofNat 8 (rom v).length, fun _ => rfl⟩
  | rdWchr j => exact .inl ⟨fun v => paddedByte (rom v) j.val, fun _ => rfl⟩
  | wrWselHi d => exact .inr ⟨rfl, fun v => withHigh v d, fun _ => rfl⟩
  | wrWselLo d => exact .inr ⟨rfl, fun v => withLow v d, fun _ => rfl⟩
  | _ => simp [isLookup] at h

/-- Settles O42: both states have the WSEL that the operation's byte, or its new WSEL, is made from. -/
theorem lookupPortIsIndependentOfTheEncoder : Obligations.LookupPortIsIndependentOfTheEncoder := by
  intro i s s' hlookup hwsel
  obtain ⟨f, hexec⟩ | ⟨hwrite, g, hexec⟩ := exec_lookup_cases hlookup
  · exact ⟨_, _, hexec s, hexec s', hwsel, fun _ => congrArg f hwsel, rfl⟩
  · exact ⟨_, _, hexec s, hexec s', congrArg g hwsel, fun hread => by simp [hread] at hwrite, rfl⟩

end Sys2Proof.Machine
end

section
/-! ### The phrase stream (43_phrase.md): the phrase's bytes, the stream read, the rewind, and the stream read to its end -/

namespace Sys2Proof.Machine

/-! #### The bytes of the phrase -/

/-- The phrase without its newline: the 24 words joined by 0x20 (R170). -/
def State.line (s : State) : List Byte := [0x20].intercalate (s.idx.toList.map rom)

theorem phrase_eq_line_append (s : State) : s.phrase = s.line ++ [0x0A] := rfl

/-- A byte in none of the words is counted in the separators alone. -/
theorem count_intercalate_of_not_mem {α : Type} [BEq α] [LawfulBEq α] {a : α} (sep : List α) {ws : List (List α)}
    (h : ∀ w ∈ ws, a ∉ w) : (sep.intercalate ws).count a = (ws.length - 1) * sep.count a := by
  induction ws with
  | nil => simp
  | cons w ws ih =>
    have hw : w.count a = 0 := List.count_eq_zero.mpr (h w List.mem_cons_self)
    have hrest := ih fun v hv => h v (List.mem_cons_of_mem w hv)
    cases ws with
    | nil => simpa using hw
    | cons v ws =>
      rw [List.intercalate_cons_cons, List.count_append, List.count_append, hw, hrest]
      simp only [List.length_cons, Nat.add_sub_cancel]
      ring

theorem not_mem_words {b : Byte} (h : wordByteOk b = false) (s : State) : ∀ w ∈ s.idx.toList.map rom, b ∉ w := by
  intro w hw hb
  obtain ⟨k, -, rfl⟩ := List.mem_map.mp hw
  obtain ⟨-, -, hbytes⟩ := (wordOk_iff _).mp (wordOk_rom k)
  simp [(wordByteOk_iff b).mpr (hbytes b hb)] at h

/-- A byte that no word may hold stands in the line as often as in the 23 separators (R150, R170). -/
theorem count_line {b : Byte} (h : wordByteOk b = false) (s : State) : s.line.count b = 23 * [(0x20 : Byte)].count b := by
  rw [State.line, count_intercalate_of_not_mem _ (not_mem_words h s), List.length_map, Vector.length_toList]

theorem count_phrase {b : Byte} (h : wordByteOk b = false) (s : State) :
    s.phrase.count b = 23 * [(0x20 : Byte)].count b + [(0x0A : Byte)].count b := by
  rw [phrase_eq_line_append, List.count_append, count_line h]

theorem zero_not_mem_phrase (s : State) : (0x00 : Byte) ∉ s.phrase :=
  List.count_eq_zero.mp (count_phrase (by decide) s)

theorem splitOn_line (s : State) : s.line.splitOn 0x20 = s.idx.toList.map rom := by
  have hne : s.idx.toList.map rom ≠ [] := List.ne_nil_of_length_eq_add_one (n := 23) (by simp)
  exact List.splitOn_intercalate 0x20 (not_mem_words (by decide) s) hne

/-- The newline stands at the end of the phrase, and nowhere before it (R170). -/
theorem getElem_phrase_eq_newline_iff (s : State) {j : Nat} (h : j < s.phrase.length) :
    s.phrase[j] = 0x0A ↔ j + 1 = s.plen := by
  have hplen : s.plen = s.line.length + 1 := by rw [State.plen, phrase_eq_line_append, List.length_append]; rfl
  have hline : (0x0A : Byte) ∉ s.line := List.count_eq_zero.mp (count_line (by decide) s)
  simp only [phrase_eq_line_append]
  by_cases hj : j < s.line.length
  · have hbyte : s.line[j] ≠ 0x0A := fun heq => hline (heq ▸ List.getElem_mem hj)
    rw [List.getElem_append_left hj]
    simp only [hbyte, false_iff]
    omega
  · rw [List.getElem_append_right (Nat.not_lt.mp hj), List.getElem_singleton]
    have hlt : j < s.plen := h
    simp only [true_iff]
    omega

/-- The words have 24 to 24 · WMAX bytes together (R150, R170). -/
theorem plen_bounds (s : State) : 48 ≤ s.plen ∧ s.plen ≤ 24 * Config.wmax + 24 := by
  have hwords (k : Index) : 1 ≤ (rom k).length ∧ (rom k).length ≤ Config.wmax := by
    obtain ⟨hpos, hmax, -⟩ := (wordOk_iff _).mp (wordOk_rom k)
    exact ⟨hpos, hmax⟩
  have hlow := List.length_le_sum_of_one_le (s.idx.toList.map fun k => (rom k).length) fun n hn => by
    obtain ⟨k, -, rfl⟩ := List.mem_map.mp hn
    exact (hwords k).1
  have hhigh := sum_map_le s.idx.toList (fun k => (rom k).length) Config.wmax fun k => (hwords k).2
  rw [List.length_map, Vector.length_toList] at hlow
  rw [Vector.length_toList] at hhigh
  rw [State.plen, State.phrase, length_phraseOf]
  omega

/-- Settles O43: the words hold no separator, newline or 0x00, so these bytes are the ones the joining put in. -/
theorem phraseIsTwentyFourWordsAndANewline : Obligations.PhraseIsTwentyFourWordsAndANewline := by
  intro s
  obtain ⟨hlow, hhigh⟩ := plen_bounds s
  refine ⟨?_, length_phraseOf rom s.idx, hlow, hhigh, count_phrase (by decide) s, count_phrase (by decide) s, ?_,
    zero_not_mem_phrase s⟩
  · rw [phrase_eq_line_append, List.dropLast_concat, splitOn_line]
  · rw [phrase_eq_line_append, List.getLast?_concat]

/-! #### The stream read -/

theorem exec_rdPhrData_of_lt {s : State} (hdone : s.done = true) (h : s.ptr.toNat < s.phrase.length) :
    exec .rdPhrData s = .next (s.advancePtr.drive s.phrase[s.ptr.toNat]) := by
  simp [exec, execRdPhrData, hdone, h]

theorem exec_rdPhrData_of_ge {s : State} (hdone : s.done = true) (h : s.plen ≤ s.ptr.toNat) :
    exec .rdPhrData s = .next (s.drive 0x00) := by
  have hnone : s.phrase[s.ptr.toNat]? = none := List.getElem?_eq_none h
  simp [exec, execRdPhrData, hdone, hnone]

/-- PTR's 9 bits hold PLEN, so a stream read does not wrap it (R29, R172). -/
theorem advancePtr_ptr_toNat {s : State} (h : s.ptr.toNat < s.plen) : s.advancePtr.ptr.toNat = s.ptr.toNat + 1 := by
  have hmax := plen_lt s
  have hfits : s.ptr.toNat + 1 < 2 ^ 9 := by omega
  exact (BitVec.toNat_add s.ptr 1).trans (Nat.mod_eq_of_lt hfits)

theorem pend_eq_true_iff {s : State} : s.pend = true ↔ s.done = true ∧ s.ptr.toNat = s.plen := by
  rw [State.pend, Bool.and_eq_true, beq_iff_eq]

/-- Settles O44: the three cases of the read; after the last byte, which alone is the newline, PTR is PLEN. -/
theorem rdPhrDataReturnsTheNextByte : Obligations.RdPhrDataReturnsTheNextByte := by
  intro s
  refine ⟨decodeOfEncodeIsIdentity .rdPhrData rfl, fun hdone => ?_, fun hdone h => ?_, exec_rdPhrData_of_ge⟩
  · exact exec_of_refused_read rfl (by simp [raisesAccErr, hdone])
  · have hptr : s.advancePtr.ptr.toNat = s.ptr.toNat + 1 := advancePtr_ptr_toNat h
    refine ⟨_, exec_rdPhrData_of_lt hdone h, rfl, hptr, ?_, ?_⟩
    · intro hzero
      exact zero_not_mem_phrase s (hzero ▸ List.getElem_mem h)
    · rw [State.drive_rdata, getElem_phrase_eq_newline_iff, ← hptr, pend_eq_true_iff]
      exact and_iff_right hdone

/-! #### The rewind -/

/-- The command bits 100 of CTRL's data are PRW's (R84, R173). -/
theorem decode_wrCtrlPrw {d : Byte} (h : d.extractLsb' 0 3 = 4) : decode (tword true 0x40 d) = .wrCtrlPrw := by
  have hbit (k : Nat) (hk : k < 3) : d.getLsbD k = (4 : BitVec 3).getLsbD k := by
    rw [← h]
    simp [hk]
  rw [ctrlCommandPriority d, hbit 1 (by decide), hbit 0 (by decide), hbit 2 (by decide)]
  rfl

theorem exec_wrCtrlPrw (s : State) : exec .wrCtrlPrw s = .next s.rewindPtr := rfl

theorem rewindPtr_of_ptr_eq_zero {s : State} (h : s.ptr = 0) : s.rewindPtr = s := by
  rw [State.rewindPtr, ← h]

/-- Settles O45: PTR is 0 after the rewind, and was 0 before it where no encoding is finished. -/
theorem wrCtrlPrwRewinds : Obligations.WrCtrlPrwRewinds :=
  ⟨fun _ => decode_wrCtrlPrw, fun s => ⟨s.rewindPtr, exec_wrCtrlPrw s, rfl, pend_eq_false_of_ptr_eq_zero rfl,
    fun hinv hdone => rewindPtr_of_ptr_eq_zero (hinv.ptr_eq_zero hdone)⟩⟩

/-! #### The stream read to its end -/

/-- The state with the whole phrase read: PTR is PLEN, and the last byte read is on the read data. -/
def State.atPhraseEnd (s : State) (b : Byte) : State := { s with ptr := BitVec.ofNat 9 s.plen, rdata := b }

theorem atPhraseEnd_ptr_toNat (s : State) (b : Byte) : (s.atPhraseEnd b).ptr.toNat = s.plen := by
  have hmax := plen_lt s
  exact Nat.mod_eq_of_lt (by omega)

/-- The reads that are left up to PLEN return what is left of the phrase, and change PTR and the read data only. -/
theorem readStream_to_end (n : Nat) {s : State} (hdone : s.done = true) (hn : s.ptr.toNat + n = s.plen) :
    readStream n s =
      some (s.phrase.drop s.ptr.toNat, s.atPhraseEnd ((s.phrase.drop s.ptr.toNat).getLastD s.rdata)) := by
  induction n generalizing s with
  | zero =>
    have hdrop : s.phrase.drop s.ptr.toNat = [] := List.drop_eq_nil_of_le (Nat.le_of_eq hn.symm)
    have hptr : BitVec.ofNat 9 s.plen = s.ptr := by rw [← hn]; simp
    rw [hdrop, State.atPhraseEnd, hptr]
    rfl
  | succ n ih =>
    have hlt : s.ptr.toNat < s.phrase.length := Nat.lt_of_lt_of_eq (by omega) hn
    have hptr : (s.advancePtr.drive s.phrase[s.ptr.toNat]).ptr.toNat = s.ptr.toNat + 1 := advancePtr_ptr_toNat hlt
    have hrest := ih (s := s.advancePtr.drive s.phrase[s.ptr.toNat]) hdone (by rw [hptr, Nat.add_right_comm]; exact hn)
    rw [hptr, readStream] at hrest
    rw [readStream, List.replicate_succ, readAll_cons_of_next (exec_rdPhrData_of_lt hdone hlt), hrest,
      List.drop_eq_getElem_cons hlt, List.getLastD_cons]
    rfl

/-- Settles O46: after the rewind all of the phrase is left, and its last byte is the newline. -/
theorem streamReadsBackThePhrase : Obligations.StreamReadsBackThePhrase := by
  intro s hdone
  have hread : readStream s.plen s.rewindPtr = some (s.phrase, s.atPhraseEnd (s.phrase.getLastD s.rdata)) :=
    readStream_to_end s.plen hdone (Nat.zero_add _)
  have hlast : s.phrase.getLastD s.rdata = 0x0A := by rw [phrase_eq_line_append, List.getLastD_concat]
  have hptr : (s.atPhraseEnd 0x0A).ptr.toNat = s.plen := atPhraseEnd_ptr_toNat s 0x0A
  have hend : (s.atPhraseEnd 0x0A).done = true := hdone
  rw [hlast] at hread
  refine ⟨execAll_cons_of_next (exec_wrCtrlPrw s), s.atPhraseEnd 0x0A, hread, rfl, hptr, ?_, ?_⟩
  · exact pend_eq_true_iff.mpr ⟨hend, hptr⟩
  · exact exec_rdPhrData_of_ge hend (Nat.le_of_eq hptr.symm)

end Sys2Proof.Machine
end

section
/-! ### Control, status and illegal accesses (44_control_status.md): the STATUS byte, CLEAR and NOP, and the catch-all
accesses -/

namespace Sys2Proof.Machine

/-! #### The STATUS byte -/

theorem err_eq_true_iff {s : State} : s.err = true ↔ s.errcode ≠ 0 := bne_iff_ne

theorem err_eq_false_of_errcode {s : State} (h : s.errcode = 0) : s.err = false := by simp [State.err, h]

/-- The byte of the five flags PEND, ACCERR, ERR, DONE and BUSY (R32). -/
def flagByte (p a e d b : Bool) : Byte :=
  BitVec.ofNat 8 (p.toNat * 16 + a.toNat * 8 + e.toNat * 4 + d.toNat * 2 + b.toNat)

theorem status_eq_flagByte (s : State) : s.status = flagByte s.pend s.accerr s.err s.done s.busy := rfl

theorem flagByte_getLsbD : ∀ p a e d b : Bool,
    (flagByte p a e d b).getLsbD 0 = b ∧ (flagByte p a e d b).getLsbD 1 = d ∧ (flagByte p a e d b).getLsbD 2 = e ∧
      (flagByte p a e d b).getLsbD 3 = a ∧ (flagByte p a e d b).getLsbD 4 = p := by decide

theorem flagByte_toNat_lt : ∀ p a e d b : Bool, (flagByte p a e d b).toNat < 32 := by decide

theorem flagByte_toNat_mod_eight : ∀ p a e d b : Bool,
    (flagByte p a e d b).toNat % 8 = e.toNat * 4 + d.toNat * 2 + b.toNat := by decide

theorem status_getLsbD (s : State) :
    s.status.getLsbD 0 = s.busy ∧ s.status.getLsbD 1 = s.done ∧ s.status.getLsbD 2 = s.err ∧
      s.status.getLsbD 3 = s.accerr ∧ s.status.getLsbD 4 = s.pend := by
  rw [status_eq_flagByte]
  exact flagByte_getLsbD s.pend s.accerr s.err s.done s.busy

theorem status_toNat_lt (s : State) : s.status.toNat < 32 := by
  rw [status_eq_flagByte]
  exact flagByte_toNat_lt s.pend s.accerr s.err s.done s.busy

theorem status_toNat_mod_eight (s : State) :
    s.status.toNat % 8 = s.err.toNat * 4 + s.done.toNat * 2 + s.busy.toNat := by
  rw [status_eq_flagByte, flagByte_toNat_mod_eight]

/-- Busy shows alone in bits 2:0 (R39, 2). -/
theorem State.Inv.status_of_busy {s : State} (h : s.Inv) (hbusy : s.busy = true) : s.status.toNat % 8 = 1 := by
  obtain ⟨-, hdone, herr⟩ := h.busy_excludes hbusy
  simp [status_toNat_mod_eight, hbusy, hdone, err_eq_false_of_errcode herr]

/-- Done shows alone in bits 2:0 (R39, 1). -/
theorem State.Inv.status_of_done {s : State} (h : s.Inv) (hdone : s.done = true) : s.status.toNat % 8 = 2 := by
  obtain ⟨-, hbusy, herr⟩ := h.done_excludes hdone
  simp [status_toNat_mod_eight, hbusy, hdone, err_eq_false_of_errcode herr]

/-- Bits 2:0 are idle, busy, done or error (R193). -/
theorem State.Inv.status_cases {s : State} (h : s.Inv) : s.status.toNat % 8 ∈ [0, 1, 2, 4] := by
  cases hbusy : s.busy with
  | true => simp [h.status_of_busy hbusy]
  | false =>
    cases hdone : s.done with
    | true => simp [h.status_of_done hdone]
    | false => cases herr : s.err <;> simp [status_toNat_mod_eight, hbusy, hdone, herr]

@[simp] theorem engineEdge_rdata (fire was : Bool) (s : State) : (engineEdge fire was s).rdata = s.rdata := by
  obtain ⟨-, -, -, h⟩ | ⟨-, h⟩ := engineEdge_cases fire was s
  · rw [h, encComplete_eq, State.storeResults_rdata]
  · rw [h]

/-- A STATUS read in a cycle shows the state in which the cycle begins, also where the engine completes at its edge (R62). -/
theorem step_rdStatus_rdata {s u : State} (hissues : s.nextCycle.Issues .rdStatus) (hstep : step s = .next u) :
    u.rdata = s.status := by
  rw [step_of_issues hissues] at hstep
  obtain ⟨t, hexec, rfl⟩ := afterBus_eq_next hstep
  cases hexec
  exact engineEdge_rdata _ _ _

/-- Settles O49: the byte has a bit for each flag, and the engine's edge does not write the read data. -/
theorem rdStatusReturnsTheFlags : Obligations.RdStatusReturnsTheFlags := by
  intro s
  obtain ⟨hbusy, hdone, herr, haccerr, hpend⟩ := status_getLsbD s
  refine ⟨decodeOfEncodeIsIdentity .rdStatus rfl, s.drive s.status, rfl, rfl, hbusy, hdone, ?_, haccerr, ?_,
    status_toNat_lt s, fun hinv => ⟨hinv.status_cases, fun hbit => ?_⟩, fun _ => step_rdStatus_rdata⟩
  · rw [State.drive_rdata, herr, err_eq_true_iff]
  · rw [State.drive_rdata, hpend, pend_eq_true_iff]
  · obtain ⟨hdone, -⟩ := pend_eq_true_iff.mp (hpend.symm.trans hbit)
    exact hinv.status_of_done hdone

/-! #### CLEAR and NOP -/

theorem decode_wrCtrlClear {d : Byte} (h : d.getLsbD 1 = true) : decode (tword true 0x40 d) = .wrCtrlClear := by
  rw [ctrlCommandPriority d, if_pos h]

theorem exec_wrCtrlClear (s : State) : exec .wrCtrlClear s = .next s.clearElements := rfl

@[simp] theorem clearElements_status (s : State) : s.clearElements.status = 0x00 := rfl

/-- A CLEAR leaves BUSY = 0, so its cycle has no completion (R190). -/
theorem step_wrCtrlClear {s : State} (hissues : s.nextCycle.Issues .wrCtrlClear) :
    step s = .next s.beginCycle.clearElements := by
  rw [step_of_issues hissues, exec_wrCtrlClear, afterBus, engineEdge_of_quiet (by simp)]

/-- Settles O51: the reset values, and at the cycle's edge nothing more. -/
theorem wrCtrlClearGivesResetValues : Obligations.WrCtrlClearGivesResetValues := by
  refine ⟨fun _ => decode_wrCtrlClear, fun s => ⟨exec_wrCtrlClear s, fun t hexec => ?_, step_wrCtrlClear⟩⟩
  cases hexec
  exact ⟨fun _ hj => Vector.getElem_replicate hj, fun _ hi => Vector.getElem_replicate hi, clearElements_status s, rfl,
    rfl, rfl, rfl⟩

/-- The command bits 000 of CTRL's data are those of NOP's own word (R85, R191). -/
theorem decode_wrCtrlNop {d : Byte} (h : d.extractLsb' 0 3 = 0) : decode (tword true 0x40 d) = .wrCtrlNop := by
  obtain ⟨-, hlow⟩ := ignoredBitsDoNotChangeTheOperation
  exact (hlow 0x40 d 0x00 (.inl rfl) h).trans (decodeOfEncodeIsIdentity .wrCtrlNop rfl)

theorem exec_wrCtrlNop (s : State) : exec .wrCtrlNop s = .next s := rfl

/-- Settles O52: where no command bit is set the operation is NOP, which writes nothing. -/
theorem wrCtrlNopChangesNothing : Obligations.WrCtrlNopChangesNothing :=
  ⟨fun _ => decode_wrCtrlNop, exec_wrCtrlNop⟩

/-! #### The catch-all accesses -/

theorem exec_rdRsvd (a : Byte) (s : State) : exec (.rdRsvd a) s = .next (s.flagAccErr.drive 0x00) := rfl

theorem exec_wrIllegal (a d : Byte) (s : State) : exec (.wrIllegal a d) s = .next s.flagAccErr := rfl

/-- Settles O53: these addresses are the ones of the catch-all operations, which only flag AccErr. -/
theorem illegalAccessOnlySetsAccErr : Obligations.IllegalAccessOnlySetsAccErr := by
  refine ⟨fun a d s hreserved => ?_, fun a d s hctrl hentIn hwselHi hwselLo => ?_, exec_rdRsvd, exec_wrIllegal⟩
  · rw [decode_reserved hreserved d]
    exact exec_rdRsvd a s
  · obtain ⟨-, hdecode⟩ := catchAllRowsByAddress a d
    rw [hdecode.mpr ⟨hctrl, hentIn, hwselHi, hwselLo⟩]
    exact exec_wrIllegal a d s

end Sys2Proof.Machine
end

section
/-! ### Events and exceptions (60_exceptions.md): nothing stops the block, AccErr and the error events by their causes, the
error state, and the completion that shares a cycle with a transaction -/

namespace Sys2Proof.Machine

/-! #### Nothing stops the block -/

@[simp] theorem engineEdge_inputs (fire was : Bool) (s : State) : (engineEdge fire was s).inputs = s.inputs := by
  obtain ⟨-, -, -, h⟩ | ⟨-, h⟩ := engineEdge_cases fire was s
  · rw [h, encComplete_eq, State.storeResults_inputs]
  · rw [h]

/-- A step takes one cycle's inputs, whatever the cycle does. -/
theorem step_inputs {s t : State} (h : step s = .next t) : t.inputs = s.inputs.tail := by
  obtain ⟨-, rfl⟩ | ⟨i, u, -, heffect, rfl⟩ := step_effect h
  · rw [State.resetEdge_inputs, State.beginCycle_inputs]
  · rw [engineEdge_inputs, heffect.inputs_eq, State.beginCycle_inputs]

/-- Settles O15: every operation has an effect, and every cycle ends in a next state. -/
theorem nothingStopsTheBlock : Obligations.NothingStopsTheBlock := by
  refine ⟨fun i s => ?_, fun s => ?_⟩
  · obtain ⟨t, hexec, heffect⟩ := exec_effect i s
    exact ⟨t, hexec, heffect.inputs_eq⟩
  · obtain ⟨t, hstep⟩ := exists_step_eq_next s
    exact ⟨t, hstep, step_inputs hstep⟩

/-! #### AccErr and the error events -/

/-- Settles O54: a CLEAR takes ACCERR away, and every other operation's effect raises it by the table alone. -/
theorem accErrIsRaisedExactlyAsListed : Obligations.AccErrIsRaisedExactlyAsListed := by
  intro i s t hexec
  refine ⟨fun hclear => ?_, (effect_of_exec hexec).accerr_eq⟩
  rw [hclear, exec_wrCtrlClear] at hexec
  cases hexec
  exact State.clearElements_accerr s

/-- Of the operations but a CLEAR, only a push and a START that raise a length event write ERRCODE (R221, R222). -/
theorem Effect.errcode_cases {i : Instr} {s t : State} (heffect : Effect s i t) (hclear : i ≠ .wrCtrlClear) :
    t.errcode = s.errcode ∨
      (s.busy = false ∧ s.errcode = 0 ∧ i = .wrCtrlStart ∧ s.entCnt.toNat < 32 ∧ t = s.raiseLen lenShort) ∨
      (s.busy = false ∧ s.errcode = 0 ∧ (∃ d, i = .wrEntIn d) ∧ 32 ≤ s.entCnt.toNat ∧ t = s.raiseLen lenLong) := by
  cases heffect with
  | clear => exact absurd rfl hclear
  | tooShort hbusy herr hcount => exact .inr (.inl ⟨hbusy, herr, rfl, hcount, rfl⟩)
  | tooLong d hbusy herr hcount => exact .inr (.inr ⟨hbusy, herr, ⟨d, rfl⟩, hcount, rfl⟩)
  | _ => exact .inl rfl

/-- Settles O55: an operation that changes ERRCODE raised LenShort or LenLong, from the error-free idle block. -/
theorem errorEventsComeOnlyFromTheirCauses : Obligations.ErrorEventsComeOnlyFromTheirCauses := by
  intro i s t hexec hclear hchanged
  obtain hsame | ⟨hbusy, herr, hstart, hcount, rfl⟩ | ⟨hbusy, herr, hpush, hcount, rfl⟩ :=
    (effect_of_exec hexec).errcode_cases hclear
  · exact absurd hsame hchanged
  · exact ⟨hbusy, herr, rfl, .inl ⟨hstart, hcount, rfl⟩⟩
  · exact ⟨hbusy, herr, rfl, .inr ⟨hpush, hcount, rfl⟩⟩

/-! #### The error state -/

/-- The error state is neither busy nor done (R39). -/
theorem State.Inv.idle_of_errcode_ne_zero {s : State} (h : s.Inv) (herr : s.errcode ≠ 0) :
    s.busy = false ∧ s.done = false := by
  refine ⟨Bool.eq_false_iff.mpr fun hbusy => ?_, Bool.eq_false_iff.mpr fun hdone => ?_⟩
  · obtain ⟨-, -, hnone⟩ := h.busy_excludes hbusy
    exact herr hnone
  · obtain ⟨-, -, hnone⟩ := h.done_excludes hdone
    exact herr hnone

/-- Of the operations, only a CLEAR reaches the code, the engine, the buffer or the count in the error state (R228, R231). -/
theorem Effect.frame_of_errcode_ne_zero {i : Instr} {s t : State} (heffect : Effect s i t) (hclear : i ≠ .wrCtrlClear)
    (herr : s.errcode ≠ 0) :
    t.errcode = s.errcode ∧ t.mb = s.mb ∧ t.entCnt = s.entCnt ∧ t.busy = s.busy := by
  cases heffect with
  | clear => exact absurd rfl hclear
  | push _ _ hnone | tooLong _ _ hnone | tooShort _ hnone | start _ hnone => exact absurd hnone herr
  | _ => exact ⟨rfl, rfl, rfl, rfl⟩

/-- Settles O56: the block in error is idle, so the edge is quiet, and no operation left writes what the error keeps. -/
theorem errorStateIsLeftOnlyByClearOrReset : Obligations.ErrorStateIsLeftOnlyByClearOrReset := by
  intro s t hinv herr hkeeps hstep
  obtain ⟨hbusy, hdone⟩ := hinv.idle_of_errcode_ne_zero herr
  obtain ⟨i, u, -, hclear, heffect, rfl⟩ := step_effect_of_keeps hkeeps hstep
  obtain ⟨hcode, hmb, hcount, hidle⟩ := heffect.frame_of_errcode_ne_zero hclear herr
  obtain ⟨-, hidx⟩ := heffect.results_eq hclear
  rw [engineEdge_of_quiet fun ⟨_, hwas, _⟩ => by simp [hbusy] at hwas]
  exact ⟨hcode, hmb, hcount, hidx, hidle.trans hbusy, heffect.done_eq_false hdone⟩

/-! #### The completion in a shared cycle -/

/-- The results of a completion are a function of the buffer it finds (R122, R127). -/
theorem encComplete_results_eq_of_mb_eq {s t : State} (h : t.mb = s.mb) :
    (encComplete t).mb = (encComplete s).mb ∧ (encComplete t).idx = (encComplete s).idx := by
  simp [encComplete_eq, h]

/-- Settles O12: a CLEAR ends the encoding before the edge; any other operation leaves BUSY and the buffer, so the engine is
still due and completes from the same buffer. -/
theorem transactionComesBeforeCompletion : Obligations.TransactionComesBeforeCompletion := by
  intro s i hbusy hfire hissues
  refine ⟨fun hclear => step_wrCtrlClear (hclear ▸ hissues), fun hclear => ?_⟩
  obtain ⟨u, hexec, heffect⟩ := exec_effect i s.beginCycle
  obtain ⟨hbusy', hmb, -, -⟩ := heffect.frame_of_busy hclear hbusy
  refine ⟨u, hexec, ?_, encComplete_results_eq_of_mb_eq hmb⟩
  rw [step_of_issues hissues, hexec, afterBus, engineEdge_of_due hfire hbusy hbusy']

end Sys2Proof.Machine
end

section
/-! ### Reset (70_reset_and_hazards.md): the edge with rst = 1 -/

namespace Sys2Proof.Machine

@[simp] theorem resetEdge_status (s : State) : s.resetEdge.status = 0x00 := rfl

/-- Settles O11: a cycle with rst = 1 ends in the reset edge, which neither the transaction on the pins nor the engine's choice
enters. -/
theorem resetEdgeGivesResetValues : Obligations.ResetEdgeGivesResetValues := by
  intro s c cs hinputs hrst
  have hstep : step s = .next s.beginCycle.resetEdge := step_of_rst (by rw [nextCycle_of_cons hinputs, hrst])
  have hrest : s.beginCycle.resetEdge.inputs = cs := by
    rw [State.resetEdge_inputs, State.beginCycle_inputs, hinputs, List.tail_cons]
  exact ⟨_, hstep, fun _ hj => Vector.getElem_replicate hj, rfl, fun _ hi => Vector.getElem_replicate hi, rfl, rfl, rfl, rfl,
    rfl, rfl, rfl, hrest, resetEdge_status _⟩

end Sys2Proof.Machine
end
